-- ==== Sys2Proof/Word.lean ====
section
/-! DEFINITION. The bit-vector types of the block (00_scope.md R6, R7): every value is an unsigned number of a
fixed width. -/

namespace Sys2Proof

/-- An 8-bit value: a byte of memory, a general register, a timer, the immediate `nn` (R20, R26, R27, R72). -/
abbrev Byte := BitVec 8

/-- A 16-bit value: an instruction word, PC, I, a call-stack entry (R22, R24, R25, R70). -/
abbrev Word := BitVec 16

/-- A 4-bit value: a register index `x` or `y`, the field `n`, a family, a key code (R70, R72, R241). -/
abbrev Nibble := BitVec 4

/-- A 12-bit absolute address: the field `nnn` (R72). -/
abbrev Addr := BitVec 12

end Sys2Proof
end

