-- ==== Sys2Proof/Syntax.lean ====
section
/-! DEFINITION. The fields of an instruction word (30_encoding.md R70) and the 34 instructions of the opcode map
(R74), one constructor per row of spec/opcode_table.json, in the table's order of rows. Operand widths stand in the
types (R72), so an instruction with an operand out of range cannot be written. -/

namespace Sys2Proof

/-- R70: the six fields of a 16-bit word, at fixed and overlapping positions. -/
structure Fields where
  family : Nibble
  x : Nibble
  y : Nibble
  n : Nibble
  nn : Byte
  nnn : Addr
  deriving DecidableEq, Repr

/-- R74: the instructions. `x`, `y` are register indices, `n` a sprite height, `nn` an immediate byte, `nnn` an
absolute address (R72). SHR and SHL keep the `y` field that they decode and do not read (R77). -/
inductive Instr where
  /-- 00E0 `CLS` -/
  | cls
  /-- 00EE `RET` -/
  | ret
  /-- 1NNN `JP nnn` -/
  | jp (nnn : Addr)
  /-- 2NNN `CALL nnn` -/
  | call (nnn : Addr)
  /-- 3XNN `SE Vx, nn` -/
  | seVxNn (x : Nibble) (nn : Byte)
  /-- 4XNN `SNE Vx, nn` -/
  | sneVxNn (x : Nibble) (nn : Byte)
  /-- 5XY0 `SE Vx, Vy` -/
  | seVxVy (x y : Nibble)
  /-- 6XNN `LD Vx, nn` -/
  | ldVxNn (x : Nibble) (nn : Byte)
  /-- 7XNN `ADD Vx, nn` -/
  | addVxNn (x : Nibble) (nn : Byte)
  /-- 8XY0 `LD Vx, Vy` -/
  | ldVxVy (x y : Nibble)
  /-- 8XY1 `OR Vx, Vy` -/
  | or (x y : Nibble)
  /-- 8XY2 `AND Vx, Vy` -/
  | and (x y : Nibble)
  /-- 8XY3 `XOR Vx, Vy` -/
  | xor (x y : Nibble)
  /-- 8XY4 `ADD Vx, Vy` -/
  | addVxVy (x y : Nibble)
  /-- 8XY5 `SUB Vx, Vy` -/
  | sub (x y : Nibble)
  /-- 8XY6 `SHR Vx, Vy` -/
  | shr (x y : Nibble)
  /-- 8XY7 `SUBN Vx, Vy` -/
  | subn (x y : Nibble)
  /-- 8XYE `SHL Vx, Vy` -/
  | shl (x y : Nibble)
  /-- 9XY0 `SNE Vx, Vy` -/
  | sneVxVy (x y : Nibble)
  /-- ANNN `LD I, nnn` -/
  | ldINnn (nnn : Addr)
  /-- BNNN `JP V0, nnn` -/
  | jpV0 (nnn : Addr)
  /-- CXNN `RND Vx, nn` -/
  | rnd (x : Nibble) (nn : Byte)
  /-- DXYN `DRW Vx, Vy, n` -/
  | drw (x y n : Nibble)
  /-- EX9E `SKP Vx` -/
  | skp (x : Nibble)
  /-- EXA1 `SKNP Vx` -/
  | sknp (x : Nibble)
  /-- FX07 `LD Vx, DT` -/
  | ldVxDt (x : Nibble)
  /-- FX0A `LD Vx, K` -/
  | ldVxK (x : Nibble)
  /-- FX15 `LD DT, Vx` -/
  | ldDtVx (x : Nibble)
  /-- FX18 `LD ST, Vx` -/
  | ldStVx (x : Nibble)
  /-- FX1E `ADD I, Vx` -/
  | addIVx (x : Nibble)
  /-- FX29 `LD F, Vx` -/
  | ldFVx (x : Nibble)
  /-- FX33 `LD B, Vx` -/
  | ldBVx (x : Nibble)
  /-- FX55 `LD [I], Vx` -/
  | ldMemVx (x : Nibble)
  /-- FX65 `LD Vx, [I]` -/
  | ldVxMem (x : Nibble)
  deriving DecidableEq, Repr

end Sys2Proof
end

