-- ==== Sys2Proof/WellFormed.lean ====
section
/-! DEFINITION. Well-formedness of the syntax. The six fields of a word overlap (30_encoding.md R70), so a `Fields`
record is well formed only when its overlaps agree: `nn` is `y ++ n` and `nnn` is `x ++ y ++ n`. An `Instr` needs no
check of its own: each operand's range (R72) is its type, and fields that an instruction does not use do not make it
illegal (R77), so a statement about every well-formed instruction is a statement about every `Instr`. -/

namespace Sys2Proof

/-- R70: "nn is bits[7:0], the concatenation y ++ n". -/
def Fields.nnAgrees (f : Fields) : Bool := f.nn == f.y ++ f.n

/-- R70: "nnn is bits[11:0], the concatenation x ++ y ++ n". -/
def Fields.nnnAgrees (f : Fields) : Bool := f.nnn == f.x ++ (f.y ++ f.n)

/-- R70: both overlaps agree. -/
def Fields.wellFormed (f : Fields) : Bool := f.nnAgrees && f.nnnAgrees

end Sys2Proof
end

