-- ==== Sys2Proof/Decode.lean ====
section
/-! DEFINITION. The decoder of 30_encoding.md R70-R77: a 16-bit big-endian word to an instruction, or to Unknown
carrying the word; and the encoder, written from the same opcode map (R74). -/

namespace Sys2Proof

/-- R56: the byte at the lower address is bits[15:8] of the instruction. -/
def wordOfBytes (hi lo : Byte) : Word := hi ++ lo

/-- R56: bits[15:8], the byte that stands at the lower address. -/
def hiByte (w : Word) : Byte := w.extractLsb' 8 8

/-- R56: bits[7:0], the byte that stands at the higher address. -/
def loByte (w : Word) : Byte := w.extractLsb' 0 8

/-- R70: "family = bits[15:12]; x = bits[11:8]; y = bits[7:4]; n = bits[3:0]; nn = bits[7:0]; nnn = bits[11:0]". -/
def fieldsOf (w : Word) : Fields where
  family := w.extractLsb' 12 4
  x := w.extractLsb' 8 4
  y := w.extractLsb' 4 4
  n := w.extractLsb' 0 4
  nn := w.extractLsb' 0 8
  nnn := w.extractLsb' 0 12

/-- R73: what the decoder returns for a word: an instruction, or "an explicit 'unknown' variant carrying the raw
word". -/
inductive Decoded where
  | instr (i : Instr)
  | unknown (word : Word)
  deriving DecidableEq, Repr

/-- R74, family 0x0: only the whole words 0x00E0 and 0x00EE (R75). -/
def decodeFamily0 (w : Word) : Decoded :=
  if w = 0x00E0#16 then .instr .cls
  else if w = 0x00EE#16 then .instr .ret
  else .unknown w

/-- R74, family 0x8: dispatch on n. -/
def decodeFamily8 (f : Fields) (w : Word) : Decoded :=
  match f.n with
  | 0x0#4 => .instr (.ldVxVy f.x f.y)
  | 0x1#4 => .instr (.or f.x f.y)
  | 0x2#4 => .instr (.and f.x f.y)
  | 0x3#4 => .instr (.xor f.x f.y)
  | 0x4#4 => .instr (.addVxVy f.x f.y)
  | 0x5#4 => .instr (.sub f.x f.y)
  | 0x6#4 => .instr (.shr f.x f.y)
  | 0x7#4 => .instr (.subn f.x f.y)
  | 0xE#4 => .instr (.shl f.x f.y)
  | _ => .unknown w

/-- R74, family 0xE: dispatch on nn. -/
def decodeFamilyE (f : Fields) (w : Word) : Decoded :=
  match f.nn with
  | 0x9E#8 => .instr (.skp f.x)
  | 0xA1#8 => .instr (.sknp f.x)
  | _ => .unknown w

/-- R74, family 0xF: dispatch on nn. -/
def decodeFamilyF (f : Fields) (w : Word) : Decoded :=
  match f.nn with
  | 0x07#8 => .instr (.ldVxDt f.x)
  | 0x0A#8 => .instr (.ldVxK f.x)
  | 0x15#8 => .instr (.ldDtVx f.x)
  | 0x18#8 => .instr (.ldStVx f.x)
  | 0x1E#8 => .instr (.addIVx f.x)
  | 0x29#8 => .instr (.ldFVx f.x)
  | 0x33#8 => .instr (.ldBVx f.x)
  | 0x55#8 => .instr (.ldMemVx f.x)
  | 0x65#8 => .instr (.ldVxMem f.x)
  | _ => .unknown w

/-- R73, R74: the decoder: pure, total, by family; families 0x5 and 0x9 also check n = 0 (R75). -/
def decode (w : Word) : Decoded :=
  let f := fieldsOf w
  match f.family with
  | 0x0#4 => decodeFamily0 w
  | 0x1#4 => .instr (.jp f.nnn)
  | 0x2#4 => .instr (.call f.nnn)
  | 0x3#4 => .instr (.seVxNn f.x f.nn)
  | 0x4#4 => .instr (.sneVxNn f.x f.nn)
  | 0x5#4 => if f.n = 0x0#4 then .instr (.seVxVy f.x f.y) else .unknown w
  | 0x6#4 => .instr (.ldVxNn f.x f.nn)
  | 0x7#4 => .instr (.addVxNn f.x f.nn)
  | 0x8#4 => decodeFamily8 f w
  | 0x9#4 => if f.n = 0x0#4 then .instr (.sneVxVy f.x f.y) else .unknown w
  | 0xA#4 => .instr (.ldINnn f.nnn)
  | 0xB#4 => .instr (.jpV0 f.nnn)
  | 0xC#4 => .instr (.rnd f.x f.nn)
  | 0xD#4 => .instr (.drw f.x f.y f.n)
  | 0xE#4 => decodeFamilyE f w
  | 0xF#4 => decodeFamilyF f w
  | _ => .unknown w

/-- Why a sequence of bytes is not the start of an instruction: fewer than two bytes (R70: every instruction is 2
bytes), or a word outside the opcode map (R76). -/
inductive DecodeError where
  | truncated
  | unknownOpcode (word : Word)
  deriving DecidableEq, Repr

/-- R70, R71: decode the instruction at the head of a list of bytes and give the bytes after it. -/
def decodeBytes : List Byte → Except DecodeError (Instr × List Byte)
  | hi :: lo :: rest =>
    match decode (wordOfBytes hi lo) with
    | .instr i => .ok (i, rest)
    | .unknown w => .error (.unknownOpcode w)
  | _ => .error .truncated

/-- R70: a word with an `nnn` operand. -/
def nnnWord (family : Nibble) (nnn : Addr) : Word := family ++ nnn

/-- R70: a word with `x` and `nn`, as operands or as sub-opcode. -/
def xnnWord (family x : Nibble) (nn : Byte) : Word := family ++ (x ++ nn)

/-- R70: a word with `x`, `y` and `n`. -/
def xynWord (family x y n : Nibble) : Word := family ++ (x ++ (y ++ n))

/-- R74: the word of an instruction. -/
def encode : Instr → Word
  | .cls => 0x00E0#16
  | .ret => 0x00EE#16
  | .jp nnn => nnnWord 0x1#4 nnn
  | .call nnn => nnnWord 0x2#4 nnn
  | .seVxNn x nn => xnnWord 0x3#4 x nn
  | .sneVxNn x nn => xnnWord 0x4#4 x nn
  | .seVxVy x y => xynWord 0x5#4 x y 0x0#4
  | .ldVxNn x nn => xnnWord 0x6#4 x nn
  | .addVxNn x nn => xnnWord 0x7#4 x nn
  | .ldVxVy x y => xynWord 0x8#4 x y 0x0#4
  | .or x y => xynWord 0x8#4 x y 0x1#4
  | .and x y => xynWord 0x8#4 x y 0x2#4
  | .xor x y => xynWord 0x8#4 x y 0x3#4
  | .addVxVy x y => xynWord 0x8#4 x y 0x4#4
  | .sub x y => xynWord 0x8#4 x y 0x5#4
  | .shr x y => xynWord 0x8#4 x y 0x6#4
  | .subn x y => xynWord 0x8#4 x y 0x7#4
  | .shl x y => xynWord 0x8#4 x y 0xE#4
  | .sneVxVy x y => xynWord 0x9#4 x y 0x0#4
  | .ldINnn nnn => nnnWord 0xA#4 nnn
  | .jpV0 nnn => nnnWord 0xB#4 nnn
  | .rnd x nn => xnnWord 0xC#4 x nn
  | .drw x y n => xynWord 0xD#4 x y n
  | .skp x => xnnWord 0xE#4 x 0x9E#8
  | .sknp x => xnnWord 0xE#4 x 0xA1#8
  | .ldVxDt x => xnnWord 0xF#4 x 0x07#8
  | .ldVxK x => xnnWord 0xF#4 x 0x0A#8
  | .ldDtVx x => xnnWord 0xF#4 x 0x15#8
  | .ldStVx x => xnnWord 0xF#4 x 0x18#8
  | .addIVx x => xnnWord 0xF#4 x 0x1E#8
  | .ldFVx x => xnnWord 0xF#4 x 0x29#8
  | .ldBVx x => xnnWord 0xF#4 x 0x33#8
  | .ldMemVx x => xnnWord 0xF#4 x 0x55#8
  | .ldVxMem x => xnnWord 0xF#4 x 0x65#8

/-- R71: the two bytes of an instruction as memory holds them, the first at the lower address. -/
def encodeBytes (i : Instr) : List Byte := [hiByte (encode i), loByte (encode i)]

/-- The 16-bit word of an opcode-table row's `nbits` low bits `w`, every bit above `nbits` zero. -/
def tableWord (nbits w : Nat) : Word := BitVec.ofNat 16 (w % 2 ^ nbits)

/-- The instruction the decoder reads from the table word `w`, laid out in memory's byte order. -/
def decodeTableWord (nbits w : Nat) : Option Instr :=
  match decodeBytes [hiByte (tableWord nbits w), loByte (tableWord nbits w)] with
  | .ok (i, _) => some i
  | .error _ => none

end Sys2Proof
end

