-- ==== Sys2Proof/Config.lean ====
section
/-! DEFINITION. What an implementation fixes (00_scope.md R6: the named parameters) and the free values. The
parameters are plain data, so that a statement about a state holds for every value of them; the values the block
starts with are in Sys2Proof/Machine/Params.lean. `P_IPS` is the host's and no rule depends on it (R282). -/

namespace Sys2Proof

/-- R51, parameter `P_ADDR_OVERFLOW`: what an address formed past 0xFFF does. -/
inductive AddrOverflow where
  | wrap
  | halt
  deriving DecidableEq, Repr

/-- R200, parameter `P_KEY_INDEX`: what a key index above 0xF does. -/
inductive KeyIndexRule where
  | lowNibble
  | halt
  deriving DecidableEq, Repr

/-- R161, parameter `P_FX1E_VF` (OPEN, D8): whether FX1E writes VF. -/
inductive Fx1eVf where
  | unchanged
  | overflow
  deriving DecidableEq, Repr, Inhabited

/-- R276: the font, 16 glyphs of 5 bytes each. -/
abbrev Font := Vector (Vector Byte 5) 16

/-- R6: the parameters of the block, fixed for a run. -/
structure Config where
  addrOverflow : AddrOverflow
  keyIndex : KeyIndexRule
  fx1eVf : Fx1eVf
  font : Font
  deriving DecidableEq, Repr

/-- D8: `P_FX1E_VF` is OPEN, "with no default". A free value: nothing constrains it (log 3). Safe. -/
opaque Config.openFx1eVf : Fx1eVf

/-- R141, D15: the byte of the k-th RND, "any value 0..255, supplied from outside the machine". A free value: nothing
constrains it (log 6). Safe. -/
opaque Config.draw : Nat → Byte

end Sys2Proof
end

