-- ==== Sys2Proof/Machine/Params.lean ====
section
/-! DEFINITION. The parameter values the block is built with: the defaults of 00_scope.md R6 and, for the OPEN
parameter, the free value. -/

namespace Sys2Proof.Machine

/-- R277: the standard CHIP-8 hexadecimal font, the default value of `FONT`. PRESUMED (log 4): the spec marks the table
"from general knowledge, not in source". Unsafe for claims about glyph pixels. -/
def standardFont : Font :=
  #v[#v[0xF0, 0x90, 0x90, 0x90, 0xF0],
     #v[0x20, 0x60, 0x20, 0x20, 0x70],
     #v[0xF0, 0x10, 0xF0, 0x80, 0xF0],
     #v[0xF0, 0x10, 0xF0, 0x10, 0xF0],
     #v[0x90, 0x90, 0xF0, 0x10, 0x10],
     #v[0xF0, 0x80, 0xF0, 0x10, 0xF0],
     #v[0xF0, 0x80, 0xF0, 0x90, 0xF0],
     #v[0xF0, 0x10, 0x20, 0x40, 0x40],
     #v[0xF0, 0x90, 0xF0, 0x90, 0xF0],
     #v[0xF0, 0x90, 0xF0, 0x10, 0xF0],
     #v[0xF0, 0x90, 0xF0, 0x90, 0x90],
     #v[0xE0, 0x90, 0xE0, 0x90, 0xE0],
     #v[0xF0, 0x80, 0x80, 0x80, 0xF0],
     #v[0xE0, 0x90, 0x90, 0x90, 0xE0],
     #v[0xF0, 0x80, 0xF0, 0x80, 0xF0],
     #v[0xF0, 0x80, 0xF0, 0x80, 0x80]]

/-- R6: the parameters at construction: `wrap` (D2, log 1) and `low_nibble` (D9, log 2) are the spec's own choices,
`P_FX1E_VF` is open (D8, log 3), `FONT` is the standard table (D17, log 4). -/
def standardConfig : Config where
  addrOverflow := .wrap
  keyIndex := .lowNibble
  fx1eVf := Config.openFx1eVf
  font := standardFont

end Sys2Proof.Machine
end

