-- ==== Sys2Proof/Machine/State.lean ====
section
/-! DEFINITION. The state record of 10_state.md ("The whole state of the block is one record"), the reasons a step can
stop, and the state at construction (R35). -/

namespace Sys2Proof.Machine

/-- R230: why the engine halted. A halt is a NEXT state (R95), not a `Fault`. -/
inductive HaltReason where
  /-- code 0: any word that decodes to Unknown (R100) -/
  | unknownOpcode
  /-- code 1: 2NNN with SP = 16 (R112) -/
  | stackOverflow
  /-- code 2: 00EE with SP = 0 (R110) -/
  | stackUnderflow
  /-- code 3: only under `P_ADDR_OVERFLOW` = halt: fetch, DXYN, FX33, FX55, FX65 past 0xFFF (R51) -/
  | addressOutOfRange
  /-- code 4: only under `P_KEY_INDEX` = halt: EX9E, EXA1 with Vx > 0xF (R200) -/
  | keyIndexOutOfRange
  deriving DecidableEq, Repr

/-- R31: the engine state. `halted` carries the diagnostics of R231: the raw word (none when the fetch itself halted)
and the address of the halting instruction. -/
inductive Mode where
  | running
  | awaitingKey (x : Nibble)
  | halted (reason : HaltReason) (word : Option Word) (pc : Word)
  deriving DecidableEq, Repr

/-- R28: memory as a list of (address, byte) cells; an address that is not listed reads as `unlistedByte`. Its
canonical form is `Memory.wf` (Machine/Ops.lean). -/
abbrev Memory := List Host.Cell

/-- R29: the grid `disp[c][r]`, column c in 0..63, row r in 0..31; true is a set pixel. -/
abbrev Display := Vector (Vector Bool 32) 64

/-- The state record of 10_state.md. `cfg` and `draws` are the model's own fields, not the spec's (log 5, log 6). -/
structure State where
  /-- R28: memory -/
  mem : Memory
  /-- R20: V0..VF -/
  v : Vector Byte 16
  /-- R24: I -/
  i : Word
  /-- R22: PC -/
  pc : Word
  /-- R25: SP, the number of occupied stack entries, 0..16 -/
  sp : Fin 17
  /-- R25: the call stack -/
  stack : Vector Word 16
  /-- R26: DT -/
  dt : Byte
  /-- R27: ST -/
  st : Byte
  /-- R29: the display buffer -/
  disp : Display
  /-- R30: the key levels, true while pressed -/
  key : Vector Bool 16
  /-- R31: the engine state -/
  mode : Mode
  /-- R32: the key-down edge latch -/
  edge : Option Nibble
  /-- R6: the parameters, which no step and no port writes (log 5) -/
  cfg : Config
  /-- R141: how many free draws have been taken (log 6) -/
  draws : Nat
  deriving DecidableEq, Repr

/-- Nothing in the spec stops the machine without a next state: a halt is the mode `halted` (R95, R233), and an address
past 0xFFF wraps or halts (R51). So there is no fault; no meaning raises one. Safe. -/
inductive Fault where
  deriving DecidableEq, Repr

/-- A refused instruction. -/
inductive Refusal where
  /-- Raised only by an arm of `exec` whose instruction has no meaning yet, by its mnemonic; no arm raises it in this
  model. Safe. -/
  | notModelled (mnemonic : String)
  deriving DecidableEq, Repr

/-- The outcome of an instruction or a step. -/
abbrev Result := Host.Outcome State Fault Refusal

/-- R35, R270: the state at construction. The stack entries are "unspecified" there; 0 is a DESIGN CHOICE (log 8).
`draws` starts at 0, a DESIGN CHOICE (log 6). -/
def State.reset : State where
  mem := []
  v := Vector.replicate 16 0
  i := 0
  pc := 0x200
  sp := 0
  stack := Vector.replicate 16 0
  dt := 0
  st := 0
  disp := Vector.replicate 64 (Vector.replicate 32 false)
  key := Vector.replicate 16 false
  mode := .running
  edge := none
  cfg := standardConfig
  draws := 0

end Sys2Proof.Machine
end

