-- ==== Sys2Proof/Machine/Ops.lean ====
section
/-! DEFINITION. The named operations over the state: memory and its canonical form (20_memory.md), registers, PC, I,
the call stack (10_state.md), the pixel primitive (44_display.md R180), fetch (R56) and the one shared way into Halted
(40_step_cycle.md R95). -/

namespace Sys2Proof.Machine

/-! ## Memory -/

/-- R50: the number of addresses. -/
def memSize : Nat := 0x1000

/-- R276: glyph d occupies addresses 5·d .. 5·d + 4. -/
def fontByte (font : Font) (a : Nat) (h : a < 80) : Byte :=
  (font[a / 5]'(by omega))[a % 5]'(by omega)

/-- What an address that memory does not list reads as: its contents at construction (R35), FONT at 0x000-0x04F and 0
elsewhere (D24, log 7). -/
def unlistedByte (font : Font) (a : Nat) : Byte :=
  if h : a < 80 then fontByte font a h else 0

/-- R58: the byte at address `a`. -/
def Memory.read (font : Font) : Memory → Nat → Byte
  | [], a => unlistedByte font a
  | (b, y) :: m, a => if a = b then y else Memory.read font m a

/-- Store byte `y` at address `a`, keeping the canonical form: writing what an unlisted address reads as unlists it. -/
def Memory.write (font : Font) : Memory → Nat → Byte → Memory
  | [], a, y => if y = unlistedByte font a then [] else [(a, y)]
  | (b, z) :: m, a, y =>
    if a < b then (if y = unlistedByte font a then (b, z) :: m else (a, y) :: (b, z) :: m)
    else if a = b then (if y = unlistedByte font a then m else (a, y) :: m)
    else (b, z) :: Memory.write font m a y

/-- The canonical form of memory: addresses strictly rising and in the address space, no entry equal to what its
address reads as unlisted. -/
abbrev Memory.wf (font : Font) (m : Memory) : Prop :=
  m.Pairwise (fun p q => p.1 < q.1) ∧ ∀ c ∈ m, c.1 < memSize ∧ c.2 ≠ unlistedByte font c.1

/-- R8: `MemRead(a, 1)`. -/
def State.readByte (s : State) (a : Nat) : Byte := Memory.read s.cfg.font s.mem a

/-- R8: `MemWrite(a, 1, y)`. -/
def State.writeByte (s : State) (a : Nat) (y : Byte) : State :=
  { s with mem := Memory.write s.cfg.font s.mem a y }

/-- The writes of one instruction, in order. -/
def State.writeCells (s : State) : List (Nat × Byte) → State
  | [] => s
  | (a, y) :: ws => (s.writeByte a y).writeCells ws

/-- The bytes of `ys` at `a`, `a + 1`, ...: the host's `load` (R273) and the font writes (R271). -/
def State.writeBytesAt (s : State) (a : Nat) : List Byte → State
  | [] => s
  | y :: ys => (s.writeByte a y).writeBytesAt (a + 1) ys

/-- R51: `addr(a)`. `none` is the halt AddressOutOfRange of `P_ADDR_OVERFLOW` = halt. -/
def State.addr (s : State) (a : Nat) : Option Nat :=
  match s.cfg.addrOverflow with
  | .wrap => some (a % memSize)
  | .halt => if a < memSize then some a else none

/-! ## Registers -/

/-- R20: `V[x]`. -/
def State.reg (s : State) (x : Nibble) : Byte := s.v[x.toNat]

/-- R20: `V[x] <- y`. -/
def State.setReg (s : State) (x : Nibble) (y : Byte) : State := { s with v := s.v.set x.toNat y }

/-- R21: VF, the flag register. -/
def vf : Nibble := 0xF#4

/-- "I and PC use only their low 12 bits" (R22, R24, D3): the 16-bit value of a write to either. -/
def low12 (a : Nat) : Word := BitVec.ofNat 16 (a % 0x1000)

/-- R24: `I <- a`. -/
def State.setI (s : State) (a : Nat) : State := { s with i := low12 a }

/-- R22: `PC <- a`. -/
def State.setPc (s : State) (a : Nat) : State := { s with pc := low12 a }

/-- R92: the advance of an instruction that sets no target. -/
def State.advance (s : State) : State := s.setPc (s.pc.toNat + 2)

/-- R92: "PC += 4 if condition true else += 2". -/
def State.skipIf (s : State) (c : Bool) : State := s.setPc (s.pc.toNat + if c then 4 else 2)

/-! ## The call stack -/

/-- R25: `stack[k] <- w`. -/
def State.setStackEntry (s : State) (k : Fin 16) (w : Word) : State := { s with stack := s.stack.set k.val w }

/-- R25: `SP <- k`. -/
def State.setSp (s : State) (k : Fin 17) : State := { s with sp := k }

/-- R112: push a return address; `none` when SP = 16. -/
def State.push (s : State) (ret : Word) : Option State :=
  if h : s.sp.val < 16 then
    some ((s.setStackEntry ⟨s.sp.val, h⟩ ret).setSp ⟨s.sp.val + 1, by omega⟩)
  else none

/-- R110: the popped entry and the state after; `none` when SP = 0. -/
def State.pop (s : State) : Option (Word × State) :=
  if h : s.sp.val = 0 then none
  else some (s.stack[s.sp.val - 1]'(by omega), s.setSp ⟨s.sp.val - 1, by omega⟩)

/-! ## Timers and draws -/

/-- R26: `DT <- y`. -/
def State.setDt (s : State) (y : Byte) : State := { s with dt := y }

/-- R27: `ST <- y`. -/
def State.setSt (s : State) (y : Byte) : State := { s with st := y }

/-- R141: one more free draw taken (log 6). -/
def State.setDraws (s : State) (k : Nat) : State := { s with draws := k }

/-! ## Display and keys -/

/-- R29: a pixel's place, column then row. -/
abbrev Point := Fin 64 × Fin 32

/-- R29: `pix(c, r)`. -/
def Display.get (d : Display) (p : Point) : Bool := (d[p.1.val])[p.2.val]

/-- R29: `pix(c, r) <- b`. -/
def Display.put (d : Display) (p : Point) (b : Bool) : Display :=
  d.set p.1.val ((d[p.1.val]).set p.2.val b)

/-- R29: `pix(c, r)` of the state's display. -/
def State.pix (s : State) (c : Fin 64) (r : Fin 32) : Bool := Display.get s.disp (c, r)

/-- R29: the whole buffer after a CLS or a DRW. -/
def State.setDisp (s : State) (d : Display) : State := { s with disp := d }

/-- R35, R181: every pixel 0. -/
def blankDisplay : Display := Vector.replicate 64 (Vector.replicate 32 false)

/-- R30: `key[k]`. -/
def State.keyDown (s : State) (k : Nibble) : Bool := s.key[k.toNat]

/-- R241: `key[k] <- b`. -/
def State.setKeyLevel (s : State) (k : Nibble) (b : Bool) : State := { s with key := s.key.set k.toNat b }

/-! ## Engine state, halt and fetch -/

/-- R31: `mode <- m`. -/
def State.setMode (s : State) (m : Mode) : State := { s with mode := m }

/-- R32: `edge <- e`. -/
def State.setEdge (s : State) (e : Option Nibble) : State := { s with edge := e }

/-- R95: `raise Halt(reason)`: only `mode` changes; the recorded pc is the halting instruction's. -/
def State.raiseHalt (s : State) (reason : HaltReason) (word : Option Word) : State :=
  s.setMode (.halted reason word s.pc)

/-- R230: the codes are the spec's own numbering (D26). -/
def HaltReason.code : HaltReason → Nat
  | .unknownOpcode => 0
  | .stackOverflow => 1
  | .stackUnderflow => 2
  | .addressOutOfRange => 3
  | .keyIndexOutOfRange => 4

/-- R56, R55: the word at `addr(PC)` and `addr(PC + 1)`; `none` when the fetch itself halts (R57). -/
def State.fetch (s : State) : Option Word :=
  match s.addr s.pc.toNat, s.addr (s.pc.toNat + 1) with
  | some a, some b => some (wordOfBytes (s.readByte a) (s.readByte b))
  | _, _ => none

/-- Place a word where `fetch` reads it, in the engine state in which `step` fetches (Running, R90). -/
def State.placeWord (s : State) (w : Word) : State :=
  match s.addr s.pc.toNat, s.addr (s.pc.toNat + 1) with
  | some a, some b => ((s.writeByte a (hiByte w)).writeByte b (loByte w)).setMode .running
  | _, _ => s.setMode .running

end Sys2Proof.Machine
end

