-- ==== Sys2Proof/Machine/Flags.lean ====
section
/-! DEFINITION. The values VF can receive as the flag (10_state.md R21, R23; 42_alu.md R142). -/

namespace Sys2Proof.Machine

/-- A flag's byte: 1 or 0. -/
def flagByte (b : Bool) : Byte := if b then 1 else 0

/-- R142: the carry of 8XY4, `(V[x] + V[y]) > 0xFF` on mathematical integers. -/
def carryFlag (a b : Byte) : Byte := flagByte (decide (a.toNat + b.toNat > 0xFF))

/-- R142, D32: no borrow, minuend ≥ subtrahend. -/
def noBorrowFlag (minuend subtrahend : Byte) : Byte :=
  flagByte (decide (minuend.toNat ≥ subtrahend.toNat))

/-- R138: the bit shifted out on the right. -/
def lsbFlag (t : Byte) : Byte := t &&& 1

/-- R140: the bit shifted out on the left. -/
def msbFlag (t : Byte) : Byte := (t >>> 7) &&& 1

/-- R161, D8: "I overflow", `I + V[x] > 0xFFF` on mathematical integers. -/
def indexOverflowFlag (i : Word) (v : Byte) : Byte := flagByte (decide (i.toNat + v.toNat > 0xFFF))

/-- R9, D7: the flag is written last. -/
def State.setFlag (s : State) (f : Byte) : State := s.setReg vf f

end Sys2Proof.Machine
end

