-- ==== Sys2Proof/Machine/Operands.lean ====
section
/-! DEFINITION. The operand forms of the ISA (30_encoding.md R72, 43_index_memory.md R166): register, immediate,
absolute address, indexed by I, and the key index (45_keypad.md R200). -/

namespace Sys2Proof.Machine

/-- R51: the addresses `addr(base)`, `addr(base + 1)`, ..., `n` of them; `none` when one of them halts. -/
def State.addrRange (s : State) (base : Nat) : Nat → Option (List Nat)
  | 0 => some []
  | n + 1 =>
    match s.addr base, s.addrRange (base + 1) n with
    | some a, some as => some (a :: as)
    | _, _ => none

/-- R166: the `n` addresses `addr(I + k)`, k = 0 .. n-1. -/
def State.indexed (s : State) (n : Nat) : Option (List Nat) := s.addrRange s.i.toNat n

/-- R164: the values of V0..Vx, x + 1 of them. -/
def State.regRange (s : State) (x : Nibble) : List Byte :=
  (List.range (x.toNat + 1)).map fun k => s.reg (BitVec.ofNat 4 k)

/-- R165: write `ys` to V[k], V[k+1], ... -/
def State.loadRegs (s : State) (k : Nat) : List Byte → State
  | [] => s
  | y :: ys => (s.setReg (BitVec.ofNat 4 k) y).loadRegs (k + 1) ys

/-- R200: `keyIndex(v)`. `none` is the halt KeyIndexOutOfRange of `P_KEY_INDEX` = halt. -/
def State.keyIndex (s : State) (v : Byte) : Option Nibble :=
  match s.cfg.keyIndex with
  | .lowNibble => some (v.extractLsb' 0 4)
  | .halt => if v.toNat ≤ 0xF then some (v.extractLsb' 0 4) else none

end Sys2Proof.Machine
end

