-- ==== Sys2Proof/Machine/Alu.lean ====
section
/-! DEFINITION. Register and ALU operations (42_alu.md). All operands are read first; where a flag is written it is
written last (R9, D7, log 11). -/

namespace Sys2Proof.Machine

/-- R142: the shape of the flag-writing operations: the result to Vx, then the flag to VF, then the advance. -/
def State.aluResult (s : State) (x : Nibble) (result flag : Byte) : Result :=
  .next ((s.setReg x result).setFlag flag).advance

/-- The shape of the operations that write Vx and no flag. -/
def State.moveResult (s : State) (x : Nibble) (result : Byte) : Result :=
  .next (s.setReg x result).advance

/-- R130 `LD Vx, nn`. -/
def execLdVxNn (x : Nibble) (nn : Byte) (s : State) : Result := s.moveResult x nn

/-- R131 `ADD Vx, nn`: "8-bit wrap, VF unaffected". -/
def execAddVxNn (x : Nibble) (nn : Byte) (s : State) : Result := s.moveResult x (s.reg x + nn)

/-- R132 `LD Vx, Vy`. -/
def execLdVxVy (x y : Nibble) (s : State) : Result := s.moveResult x (s.reg y)

/-- R133 `OR Vx, Vy`. -/
def execOr (x y : Nibble) (s : State) : Result := s.moveResult x (s.reg x ||| s.reg y)

/-- R134 `AND Vx, Vy`. -/
def execAnd (x y : Nibble) (s : State) : Result := s.moveResult x (s.reg x &&& s.reg y)

/-- R135 `XOR Vx, Vy`. -/
def execXor (x y : Nibble) (s : State) : Result := s.moveResult x (s.reg x ^^^ s.reg y)

/-- R136 `ADD Vx, Vy`: VF = carry. -/
def execAddVxVy (x y : Nibble) (s : State) : Result :=
  s.aluResult x (s.reg x + s.reg y) (carryFlag (s.reg x) (s.reg y))

/-- R137 `SUB Vx, Vy`: VF = no borrow. -/
def execSub (x y : Nibble) (s : State) : Result :=
  s.aluResult x (s.reg x - s.reg y) (noBorrowFlag (s.reg x) (s.reg y))

/-- R138 `SHR Vx`: shifts Vx, not Vy; the y field is not read (R77). -/
def execShr (x _y : Nibble) (s : State) : Result :=
  s.aluResult x (s.reg x >>> 1) (lsbFlag (s.reg x))

/-- R139 `SUBN Vx, Vy`: Vy - Vx, VF = no borrow. -/
def execSubn (x y : Nibble) (s : State) : Result :=
  s.aluResult x (s.reg y - s.reg x) (noBorrowFlag (s.reg y) (s.reg x))

/-- R140 `SHL Vx`: shifts Vx, not Vy; the y field is not read (R77). -/
def execShl (x _y : Nibble) (s : State) : Result :=
  s.aluResult x (s.reg x <<< 1) (msbFlag (s.reg x))

/-- R141 `RND Vx, nn`: the draw is a free value, and the next one is another (log 6). -/
def execRnd (x : Nibble) (nn : Byte) (s : State) : Result :=
  (s.setDraws (s.draws + 1)).moveResult x (Config.draw s.draws &&& nn)

end Sys2Proof.Machine
end

