-- ==== Sys2Proof/Machine/Flow.lean ====
section
/-! DEFINITION. Control flow (41_flow.md): RET, JP, CALL, the four skips on registers, JP V0. -/

namespace Sys2Proof.Machine

/-- R110 `RET`: "PC = stack[--SP] (fatal if SP==0)". -/
def execRet (s : State) : Result :=
  match s.pop with
  | none => .next (s.raiseHalt .stackUnderflow (some (encode .ret)))
  | some (t, s') => .next (s'.setPc t.toNat)

/-- R111 `JP nnn`. -/
def execJp (nnn : Addr) (s : State) : Result := .next (s.setPc nnn.toNat)

/-- R112 `CALL nnn`: "stack[SP++] = PC+2 (fatal if SP==16); PC = NNN". -/
def execCall (nnn : Addr) (s : State) : Result :=
  match s.push (low12 (s.pc.toNat + 2)) with
  | none => .next (s.raiseHalt .stackOverflow (some (encode (.call nnn))))
  | some s' => .next (s'.setPc nnn.toNat)

/-- R113 `SE Vx, nn`. PRESUMED condition (D16, log 12). -/
def execSeVxNn (x : Nibble) (nn : Byte) (s : State) : Result := .next (s.skipIf (s.reg x == nn))

/-- R114 `SNE Vx, nn`. PRESUMED condition (D16, log 12). -/
def execSneVxNn (x : Nibble) (nn : Byte) (s : State) : Result := .next (s.skipIf (s.reg x != nn))

/-- R115 `SE Vx, Vy`. PRESUMED condition (D16, log 12). -/
def execSeVxVy (x y : Nibble) (s : State) : Result := .next (s.skipIf (s.reg x == s.reg y))

/-- R116 `SNE Vx, Vy`. PRESUMED condition (D16, log 12). -/
def execSneVxVy (x y : Nibble) (s : State) : Result := .next (s.skipIf (s.reg x != s.reg y))

/-- R117 `JP V0, nnn`: V0, not Vx. -/
def execJpV0 (nnn : Addr) (s : State) : Result := .next (s.setPc (nnn.toNat + (s.reg 0).toNat))

end Sys2Proof.Machine
end

