-- ==== Sys2Proof/Machine/Graphics.lean ====
section
/-! DEFINITION. The display and the collision detector (44_display.md). -/

namespace Sys2Proof.Machine

/-- R180: XOR one pixel with 1; the collision output is the old value. -/
def xorPixel (d : Display) (p : Point) : Display × Bool := (Display.put d p (!Display.get d p), Display.get d p)

/-- R180: the XORs of one DXYN in order, and the OR of their collision outputs. -/
def blit (d : Display) : List Point → Display × Bool
  | [] => (d, false)
  | p :: ps =>
    let (d₁, c₁) := xorPixel d p
    let (d₂, c₂) := blit d₁ ps
    (d₂, c₁ || c₂)

/-- R182: `((cx + c) mod 64, (cy + r) mod 32)`. -/
def spritePoint (cx cy : Byte) (c r : Nat) : Point :=
  (Fin.ofNat 64 (cx.toNat + c), Fin.ofNat 32 (cy.toNat + r))

/-- R182: the pixels of row `r` whose sprite bit is 1; bit 7 is the leftmost. -/
def rowPoints (cx cy : Byte) (r : Nat) (row : Byte) : List Point :=
  ((List.range 8).filter fun c => row.getLsbD (7 - c)).map fun c => spritePoint cx cy c r

/-- R182: the pixels of the sprite rows `r`, `r + 1`, ..., in the order of the loops. -/
def spritePoints (cx cy : Byte) (r : Nat) : List Byte → List Point
  | [] => []
  | row :: rows => rowPoints cx cy r row ++ spritePoints cx cy (r + 1) rows

/-- R181 `CLS`. -/
def execCls (s : State) : Result := .next (s.setDisp blankDisplay).advance

/-- R182 `DRW Vx, Vy, n`: coordinates and rows are read first; VF is the collision bit, written last, also for n = 0. -/
def execDrw (x y n : Nibble) (s : State) : Result :=
  match s.indexed n.toNat with
  | none => .next (s.raiseHalt .addressOutOfRange (some (encode (.drw x y n))))
  | some as =>
    let drawn := blit s.disp (spritePoints (s.reg x) (s.reg y) 0 (as.map s.readByte))
    .next ((s.setDisp drawn.1).setFlag (flagByte drawn.2)).advance

end Sys2Proof.Machine
end

