-- ==== Sys2Proof/Machine/IndexMemory.lean ====
section
/-! DEFINITION. The index register and memory (43_index_memory.md). Every address passes through `addr` before the
first write, so a halt leaves memory untouched (R51, R93). -/

namespace Sys2Proof.Machine

/-- R160 `LD I, nnn`. -/
def execLdINnn (nnn : Addr) (s : State) : Result := .next (s.setI nnn.toNat).advance

/-- R161: what VF holds after FX1E: the overflow flag under `P_FX1E_VF` = overflow, else the value it had (not
written). -/
def State.vfAfterAddI (s : State) (x : Nibble) : Byte :=
  match s.cfg.fx1eVf with
  | .unchanged => s.reg vf
  | .overflow => indexOverflowFlag s.i (s.reg x)

/-- R161 `ADD I, Vx`: 12-bit sum; VF last. -/
def execAddIVx (x : Nibble) (s : State) : Result :=
  .next ((s.setI (s.i.toNat + (s.reg x).toNat)).setFlag (s.vfAfterAddI x)).advance

/-- R162 `LD F, Vx`: "I = font base + 5 × (Vx & 0xF)", font base 0x000. -/
def execLdFVx (x : Nibble) (s : State) : Result :=
  .next (s.setI (5 * ((s.reg x).toNat % 16))).advance

/-- R163: the three decimal digits, hundreds first. -/
def bcdDigits (v : Byte) : List Byte :=
  [BitVec.ofNat 8 (v.toNat / 100), BitVec.ofNat 8 (v.toNat / 10 % 10), BitVec.ofNat 8 (v.toNat % 10)]

/-- R163, R164: the bytes `ys` stored at I, I + 1, ..., all or none. -/
def State.storeAtI (s : State) (i : Instr) (ys : List Byte) : Result :=
  match s.indexed ys.length with
  | none => .next (s.raiseHalt .addressOutOfRange (some (encode i)))
  | some as => .next (s.writeCells (as.zip ys)).advance

/-- R163 `LD B, Vx`. -/
def execLdBVx (x : Nibble) (s : State) : Result := s.storeAtI (.ldBVx x) (bcdDigits (s.reg x))

/-- R164 `LD [I], Vx`: V0..Vx, I unmodified. -/
def execLdMemVx (x : Nibble) (s : State) : Result := s.storeAtI (.ldMemVx x) (s.regRange x)

/-- R165 `LD Vx, [I]`: all reads first, then V0..Vx; I unmodified. -/
def execLdVxMem (x : Nibble) (s : State) : Result :=
  match s.indexed (x.toNat + 1) with
  | none => .next (s.raiseHalt .addressOutOfRange (some (encode (.ldVxMem x))))
  | some as => .next (s.loadRegs 0 (as.map s.readByte)).advance

end Sys2Proof.Machine
end

