-- ==== Sys2Proof/Machine/Keypad.lean ====
section
/-! DEFINITION. The keypad instructions (45_keypad.md) and the steps of a pending key wait (40_step_cycle.md R97,
R98). -/

namespace Sys2Proof.Machine

/-- R201 `SKP Vx`: the key's level. -/
def execSkp (x : Nibble) (s : State) : Result :=
  match s.keyIndex (s.reg x) with
  | none => .next (s.raiseHalt .keyIndexOutOfRange (some (encode (.skp x))))
  | some k => .next (s.skipIf (s.keyDown k))

/-- R202 `SKNP Vx`. -/
def execSknp (x : Nibble) (s : State) : Result :=
  match s.keyIndex (s.reg x) with
  | none => .next (s.raiseHalt .keyIndexOutOfRange (some (encode (.sknp x))))
  | some k => .next (s.skipIf (!s.keyDown k))

/-- R203 `LD Vx, K`: enter AwaitingKey(x) and clear the latch; PC stays at the FX0A. -/
def execLdVxK (x : Nibble) (s : State) : Result := .next ((s.setMode (.awaitingKey x)).setEdge none)

/-- R97, R98: a step in AwaitingKey(x): nothing without an edge; with one, the key code goes to Vx, PC advances by 2
and the engine runs again. -/
def State.continueKeyWait (s : State) (x : Nibble) : State :=
  match s.edge with
  | none => s
  | some k => ((s.setReg x (k.setWidth 8)).advance.setMode .running).setEdge none

end Sys2Proof.Machine
end

