-- ==== Sys2Proof/Machine/Engine.lean ====
section
/-! DEFINITION. One step of the engine by its state (40_step_cycle.md R90, R91). -/

namespace Sys2Proof.Machine

/-- R91: fetch, decode and execute one instruction. -/
def executeOne (s : State) : Result :=
  match s.fetch with
  | none => .next (s.raiseHalt .addressOutOfRange none)
  | some w =>
    match decode w with
    | .unknown w' => .next (s.raiseHalt .unknownOpcode (some w'))
    | .instr i => exec i s

/-- R90: Running executes one instruction, AwaitingKey resolves or continues, Halted does nothing (R96). -/
def stepByMode (s : State) : Result :=
  match s.mode with
  | .running => executeOne s
  | .awaitingKey x => .next (s.continueKeyWait x)
  | .halted _ _ _ => .next s

end Sys2Proof.Machine
end

