-- ==== Sys2Proof/Machine/Step.lean ====
section
/-! DEFINITION. The step of the machine, `step()` of 40_step_cycle.md R90, and the placing of an instruction where it
fetches. -/

namespace Sys2Proof.Machine

/-- R90: `step()`. The status it returns (R94) is the mode of the next state. -/
def step (s : State) : Host.Outcome State Fault Refusal := stepByMode s

/-- `s` with the table word `w` at the bytes that `fetch` reads and the engine Running (log 22). With `P_ADDR_OVERFLOW`
= halt and PC = 0xFFF no word can be fetched (R57), and none is placed. -/
def State.withFetchWord (s : State) (nbits w : Nat) : State := s.placeWord (tableWord nbits w)

end Sys2Proof.Machine
end

