-- ==== Sys2Proof/Machine/Ports.lean ====
section
/-! DEFINITION. The host-visible operations other than `step` (60_exceptions.md R235, 70_reset_and_hazards.md) and a
sequence of them: the host interleaves them as it likes (R250, R280). -/

namespace Sys2Proof.Machine

/-- R240: a floor at 0, no wraparound. -/
def countDown (t : Byte) : Byte := if t = 0 then 0 else t - 1

/-- R240: `tickTimers()`, in every engine state. -/
def State.tickTimers (s : State) : State := (s.setDt (countDown s.dt)).setSt (countDown s.st)

/-- R242: whether a `setKey` is a key-down edge that the armed, empty latch takes. -/
def State.takesEdge (s : State) (code : Nibble) (pressed : Bool) : Bool :=
  match s.mode, s.edge with
  | .awaitingKey _, none => pressed && !s.keyDown code
  | _, _ => false

/-- R241, R242: `setKey(code, pressed)`. The port is 4 bits wide, so no other code can be given (D30). -/
def State.setKey (s : State) (code : Nibble) (pressed : Bool) : State :=
  (s.setKeyLevel code pressed).setEdge (if s.takesEdge code pressed then some code else s.edge)

/-- R276: the 80 bytes of the font in address order. -/
def fontBytes (font : Font) : List Byte := font.toList.flatMap Vector.toList

/-- R271: `reset()`, from any engine state. Memory from 0x050, the keys and the stack entries keep their values (R36,
D23, log 10). -/
def State.resetPort (s : State) : State :=
  { s.writeBytesAt 0 (fontBytes s.cfg.font) with
    v := Vector.replicate 16 0
    i := 0
    sp := 0
    dt := 0
    st := 0
    disp := blankDisplay
    pc := 0x200
    mode := .running
    edge := none }

/-- R274: the failure of `load`. -/
inductive LoadError where
  | resourceError
  deriving DecidableEq, Repr

/-- R273: the largest ROM. -/
def maxRom : Nat := 0xE00

/-- R273, R274: `load(romBytes)`: writes from 0x200 and changes nothing else, or fails and changes nothing. -/
def State.load (s : State) (rom : List Byte) : Except LoadError State :=
  if rom.length ≤ maxRom then .ok (s.writeBytesAt 0x200 rom) else .error .resourceError

/-- R94: the status output. -/
def State.status (s : State) : Mode := s.mode

/-- R246: the display output. -/
def State.displaySnapshot (s : State) : Display := s.disp

/-- R245, D14: the sound output. -/
def State.soundActive (s : State) : Bool := s.st != 0

/-- R235: the operations by which the host moves the block. -/
inductive HostOp where
  | step
  | tickTimers
  | setKey (code : Nibble) (pressed : Bool)
  | reset
  | load (rom : List Byte)
  deriving DecidableEq, Repr

/-- R235, R59: one host operation, atomic. A `load` that fails leaves the state (R274). -/
def HostOp.apply (s : State) : HostOp → State
  | .step =>
    match Sys2Proof.Machine.step s with
    | .next t => t
    | .fault _ => s
    | .refused _ => s
  | .tickTimers => s.tickTimers
  | .setKey code pressed => s.setKey code pressed
  | .reset => s.resetPort
  | .load rom =>
    match s.load rom with
    | .ok t => t
    | .error _ => s

/-- R283: a run is a finite sequence of host operations. -/
def runOps (s : State) (ops : List HostOp) : State := ops.foldl HostOp.apply s

end Sys2Proof.Machine
end

