-- ==== Sys2Proof/Safety.lean ====
section
/-! DEFINITION. The terms in which claims are stated: the invariant of 10_state.md R34, the pieces of state and what it
is to change only some of them, and which instruction a state is about to execute. -/

namespace Sys2Proof.Machine

/-- R31: the engine waits for a key. -/
def Mode.isAwaiting : Mode → Bool
  | .awaitingKey _ => true
  | _ => false

/-- R31: the engine is Halted. -/
def Mode.isHalted : Mode → Bool
  | .halted _ _ _ => true
  | _ => false

/-- R34, with the canonical form of the model's memory: PC ≤ 0xFFF, I ≤ 0xFFF, every occupied stack entry ≤ 0xFFF (SP in
0..16 is its type), and an edge is latched only in AwaitingKey. -/
structure State.Inv (s : State) : Prop where
  pc_le : s.pc.toNat ≤ 0xFFF
  i_le : s.i.toNat ≤ 0xFFF
  stack_le : ∀ k : Fin 16, k.val < s.sp.val → (s.stack[k.val]).toNat ≤ 0xFFF
  edge_awaiting : s.edge ≠ none → s.mode.isAwaiting = true
  mem_wf : Memory.wf s.cfg.font s.mem

/-- The pieces of the state record of 10_state.md, and the model's own two. -/
inductive Piece where
  | mem (a : Nat)
  | reg (x : Nibble)
  | i
  | pc
  | sp
  | stackEntry (k : Fin 16)
  | dt
  | st
  | disp
  | keys
  | mode
  | edge
  | cfg
  | draws
  deriving DecidableEq, Repr

/-- The piece `p` is the same in both states. -/
def SamePiece (s t : State) : Piece → Prop
  | .mem a => t.readByte a = s.readByte a
  | .reg x => t.reg x = s.reg x
  | .i => t.i = s.i
  | .pc => t.pc = s.pc
  | .sp => t.sp = s.sp
  | .stackEntry k => t.stack[k.val] = s.stack[k.val]
  | .dt => t.dt = s.dt
  | .st => t.st = s.st
  | .disp => t.disp = s.disp
  | .keys => t.key = s.key
  | .mode => t.mode = s.mode
  | .edge => t.edge = s.edge
  | .cfg => t.cfg = s.cfg
  | .draws => t.draws = s.draws

/-- The frame: every piece outside `changed` is the same in `t` as in `s`, every byte of memory and every register
among them. -/
def ChangesOnly (s t : State) (changed : List Piece) : Prop := ∀ p, p ∉ changed → SamePiece s t p

/-- R91: the engine is Running and the instruction at PC is `i`. -/
def Fetches (s : State) (i : Instr) : Prop :=
  s.mode = .running ∧ ∃ w, s.fetch = some w ∧ decode w = .instr i

/-- R51: the `n` addresses from I on are usable: they wrap, or none of them is past 0xFFF. -/
abbrev IndexInRange (s : State) (n : Nat) : Prop :=
  s.cfg.addrOverflow = .wrap ∨ n = 0 ∨ s.i.toNat + n ≤ 0x1000

/-- R51: the address of the byte at I + k. -/
def indexAddr (s : State) (k : Nat) : Nat := (s.i.toNat + k) % 0x1000

/-- R182: the sprite of a DRW covers the pixel (c, r): one of its `n` rows, read from memory at I, has a 1 at that
place. -/
def SpriteCovers (s : State) (x y n : Nibble) (c : Fin 64) (r : Fin 32) : Prop :=
  ∃ row col : Nat, row < n.toNat ∧ col < 8 ∧
    (s.readByte (indexAddr s row)).getLsbD (7 - col) = true ∧
    c.val = ((s.reg x).toNat + col) % 64 ∧ r.val = ((s.reg y).toNat + row) % 32

/-- R92: PC has advanced by `d`, mod 0x1000. -/
def PcAdvanced (s t : State) (d : Nat) : Prop := t.pc.toNat = (s.pc.toNat + d) % 0x1000

/-- R76: the illegal words, family by family. -/
def IllegalWord (w : Word) : Prop :=
  ((fieldsOf w).family = 0x0#4 ∧ w ≠ 0x00E0#16 ∧ w ≠ 0x00EE#16) ∨
  ((fieldsOf w).family = 0x5#4 ∧ (fieldsOf w).n ≠ 0x0#4) ∨
  ((fieldsOf w).family = 0x8#4 ∧ (fieldsOf w).n ∈ [0x8#4, 0x9#4, 0xA#4, 0xB#4, 0xC#4, 0xD#4, 0xF#4]) ∨
  ((fieldsOf w).family = 0x9#4 ∧ (fieldsOf w).n ≠ 0x0#4) ∨
  ((fieldsOf w).family = 0xE#4 ∧ (fieldsOf w).nn ∉ [0x9E#8, 0xA1#8]) ∨
  ((fieldsOf w).family = 0xF#4 ∧
    (fieldsOf w).nn ∉ [0x07#8, 0x0A#8, 0x15#8, 0x18#8, 0x1E#8, 0x29#8, 0x33#8, 0x55#8, 0x65#8])

/-- R93, R230: the halting checks of an instruction, each on the state before it. -/
def HaltsWith (s : State) (i : Instr) (r : HaltReason) : Prop :=
  (r = .stackOverflow ∧ s.sp.val = 16 ∧ ∃ nnn, i = .call nnn) ∨
  (r = .stackUnderflow ∧ s.sp.val = 0 ∧ i = .ret) ∨
  (r = .addressOutOfRange ∧ s.cfg.addrOverflow = .halt ∧
    ((s.i.toNat + 2 > 0xFFF ∧ ∃ x, i = .ldBVx x) ∨
     (∃ x : Nibble, s.i.toNat + x.toNat > 0xFFF ∧ (i = .ldMemVx x ∨ i = .ldVxMem x)) ∨
     (∃ x y n : Nibble, 1 ≤ n.toNat ∧ s.i.toNat + n.toNat - 1 > 0xFFF ∧ i = .drw x y n))) ∨
  (r = .keyIndexOutOfRange ∧ s.cfg.keyIndex = .halt ∧
    ∃ x : Nibble, (s.reg x).toNat > 0xF ∧ (i = .skp x ∨ i = .sknp x))

/-- R21: the instructions that may change VF: those that name VF as their destination, those that write it as a flag,
and FX1E under `P_FX1E_VF` = overflow. FX65 names VF only with x = 0xF. -/
def MayWriteVf (s : State) (i : Instr) : Prop :=
  (∃ nn, i = .ldVxNn vf nn ∨ i = .addVxNn vf nn ∨ i = .rnd vf nn) ∨
  (∃ y, i = .ldVxVy vf y ∨ i = .or vf y ∨ i = .and vf y ∨ i = .xor vf y) ∨
  (i = .ldVxDt vf ∨ i = .ldVxMem vf) ∨
  (∃ x y, i = .addVxVy x y ∨ i = .sub x y ∨ i = .subn x y ∨ i = .shr x y ∨ i = .shl x y) ∨
  (∃ x y n, i = .drw x y n) ∨
  (s.cfg.fx1eVf = .overflow ∧ ∃ x, i = .addIVx x)

/-- R37: the two states differ at most in stack entries at or above SP, which no rule reads. -/
def SameBelowSp (s t : State) : Prop :=
  { t with stack := s.stack } = s ∧ ∀ k : Fin 16, k.val < s.sp.val → t.stack[k.val] = s.stack[k.val]

end Sys2Proof.Machine
end

