-- ==== Sys2Proof/Certificates/Slice0/Obligations.lean ====
section
/-! DEFINITION. The statements for the provers. Where a statement rests on a choice that the spec marks as its own, its
docstring names the decision (D<n> of 92_eei_decisions.md) and the log entry. Two of them stand in many statements: the
reduction of PC mod 0x1000 in `PcAdvanced` is the spec's decision D3 (log 14), and that a halt records its reason, the
word and PC in `mode` in the form (reason, word, pc) is D26 (log 24). -/

open Sys2Proof Sys2Proof.Machine

/-! ## Encoding (30_encoding.md) -/

/-- R70, R71, R73, R74: no bit of an encoding is dropped: every instruction, with every operand, is read back from its
word, and from its two big-endian bytes with any bytes after them. -/
def Obligations.DecodeOfEncodeIsTheInstruction : Prop :=
  ∀ (i : Instr) (rest : List Byte),
    decode (encode i) = .instr i ∧ decodeBytes (encodeBytes i ++ rest) = .ok (i, rest)

/-- R73, R74: each word has one meaning: a word that decodes to an instruction is that instruction's word. -/
def Obligations.EncodeOfDecodedIsTheWord : Prop :=
  ∀ (w : Word) (i : Instr), decode w = .instr i → encode i = w

/-- R74: the decoder against the 34 rows of spec/opcode_table.json: a word matches a row exactly when it decodes to an
instruction of that row, and a word that matches no row is Unknown. -/
def Obligations.DecoderFollowsOpcodeMap : Prop :=
  (∀ (w : Word) (r : OpcodeRow), r ∈ opcodeRows →
    (r.Matches w ↔ ∃ i, decode w = .instr i ∧ mnemonicOf i = r.mnemonic)) ∧
  ∀ w : Word, (∀ r ∈ opcodeRows, ¬ r.Matches w) → decode w = .unknown w

/-- R76 (families 0x5, 0x9 and 0x0 by the spec's decision D6, log 15): the words that are Unknown are those of R76's
table. -/
def Obligations.IllegalWordsAreUnknown : Prop :=
  ∀ w : Word, decode w = .unknown w ↔ IllegalWord w

/-- Sanity: words of the spec's own examples and vectors (R71, R113, R115, R136, R160, R182, R201, R203; S-08, F-19,
A-33) decode to the instructions they stand for. -/
def Obligations.ExampleWordsDecode : Prop :=
  decodeTableWord 16 0x6A05 = some (.ldVxNn 0xA 0x05) ∧ decodeTableWord 16 0x3342 = some (.seVxNn 3 0x42) ∧
  decodeTableWord 16 0x5120 = some (.seVxVy 1 2) ∧ decodeTableWord 16 0x8014 = some (.addVxVy 0 1) ∧
  decodeTableWord 16 0xA2F0 = some (.ldINnn 0x2F0) ∧ decodeTableWord 16 0xD015 = some (.drw 0 1 5) ∧
  decodeTableWord 16 0xE19E = some (.skp 1) ∧ decodeTableWord 16 0xF30A = some (.ldVxK 3) ∧
  decodeTableWord 16 0x01E0 = none ∧ decodeTableWord 16 0x5121 = none ∧ decodeTableWord 16 0x8018 = none

/-! ## The step cycle (40_step_cycle.md) -/

/-- R91, R100: in Running, when a word can be fetched: it runs the instruction the word decodes to, and nothing is added
around it; a word that decodes to Unknown halts with the word and PC, and nothing else changes. -/
def Obligations.StepRunsDecodedInstruction : Prop :=
  ∀ (s : State) (w : Word), s.mode = .running → s.fetch = some w →
    (∀ i, decode w = .instr i → step s = exec i s) ∧
    (decode w = .unknown w → step s = .next { s with mode := .halted .unknownOpcode (some w) s.pc })

/-- R56: the fetched word, its high byte at PC and its low byte at `addr(PC + 1)`. -/
def Obligations.FetchIsBigEndian : Prop :=
  ∀ (s : State) (a : Nat), s.pc.toNat ≤ 0xFFF → s.addr (s.pc.toNat + 1) = some a →
    s.fetch = some ((s.readByte s.pc.toNat).setWidth 16 <<< 8 ||| (s.readByte a).setWidth 16)

/-- R51, R57 (the spec's decision D2, log 1): at PC = 0xFFF a fetch takes its second byte from 0x000 under wrap, and
halts with no word under halt. -/
def Obligations.FetchAtTheLastAddress : Prop :=
  ∀ s : State, s.mode = .running → s.pc = 0xFFF#16 →
    (s.cfg.addrOverflow = .wrap → s.fetch = some (wordOfBytes (s.readByte 0xFFF) (s.readByte 0x000))) ∧
    (s.cfg.addrOverflow = .halt →
      step s = .next { s with mode := .halted .addressOutOfRange none 0xFFF#16 })

/-- R97: a step in AwaitingKey with no edge latched changes nothing and answers AwaitingKey, however often. -/
def Obligations.WaitWithoutEdgeChangesNothing : Prop :=
  ∀ (s : State) (x : Nibble), s.mode = .awaitingKey x → s.edge = none →
    step s = .next s ∧ s.status = .awaitingKey x ∧ ∀ n : Nat, runOps s (List.replicate n .step) = s

/-- R96, R234 (the spec's decisions D12, D31, log 17): in Halted a step changes nothing, and no sequence of host
operations without a reset leaves Halted. -/
def Obligations.OnlyResetLeavesHalted : Prop :=
  ∀ s : State, s.mode.isHalted = true →
    step s = .next s ∧ ∀ ops : List HostOp, HostOp.reset ∉ ops → (runOps s ops).mode = s.mode

/-- R98 (the spec's decision D10, log 16): a step in AwaitingKey(x) with edge k puts k in Vx, advances PC by 2, runs
again and empties the latch, and does nothing else. -/
def Obligations.KeyWaitResolution : Prop :=
  ∀ (s : State) (x k : Nibble), s.mode = .awaitingKey x → s.edge = some k →
    ∃ t, step s = .next t ∧ (t.reg x).toNat = k.toNat ∧ PcAdvanced s t 2 ∧ t.mode = .running ∧ t.edge = none ∧
      ChangesOnly s t [.reg x, .pc, .mode, .edge]

/-- R90, R93: no instruction and no step is without a next state: a halt is one. -/
def Obligations.EveryStepAnswers : Prop :=
  (∀ (i : Instr) (s : State), ∃ t, exec i s = .next t) ∧ ∀ s : State, ∃ t, step s = .next t

/-- R93, R95, R231 (the record is the spec's decision D26, log 24): a step from Running that ends in Halted changes
nothing but `mode`, and records the fetched word, or none when the fetch itself halted, and the PC. -/
def Obligations.HaltIsAllOrNothing : Prop :=
  ∀ (s t : State) (r : HaltReason) (w : Option Word) (p : Word),
    s.mode = .running → step s = .next t → t.mode = .halted r w p →
      t = { s with mode := .halted r w p } ∧ w = s.fetch ∧ p = s.pc

/-- R93, R230, R232 (reasons 3 and 4 are the spec's decisions D2 and D9, logs 1 and 2): an instruction halts with a
reason exactly when the state before it meets that reason's condition. -/
def Obligations.HaltReasonsAreExact : Prop :=
  ∀ (i : Instr) (s t : State) (r : HaltReason), s.mode = .running → exec i s = .next t →
    ((∃ w p, t.mode = .halted r w p) ↔ HaltsWith s i r)

/-! ## Construction, reset and load (70_reset_and_hazards.md) -/

/-- R35, R270 (fields other than the font and PC are the spec's decision D24, logs 7 and 9; the font bytes are a
parameter, log 4): the state at construction. -/
def Obligations.ConstructionValues : Prop :=
  (∀ (a : Nat) (h : a < 80), State.reset.readByte a = fontByte State.reset.cfg.font a h) ∧
  (∀ a : Nat, 80 ≤ a → State.reset.readByte a = 0) ∧ (∀ x : Nibble, State.reset.reg x = 0) ∧
  State.reset.i = 0 ∧ State.reset.pc = 0x200#16 ∧ State.reset.sp = 0 ∧ State.reset.dt = 0 ∧ State.reset.st = 0 ∧
  (∀ (c : Fin 64) (r : Fin 32), State.reset.pix c r = false) ∧ (∀ k : Nibble, State.reset.keyDown k = false) ∧
  State.reset.mode = .running ∧ State.reset.edge = none

/-- R36, R271 (what reset keeps is the spec's decision D23, log 10): the state after `reset()`, from any engine state. -/
def Obligations.ResetPortValues : Prop :=
  ∀ s : State, Memory.wf s.cfg.font s.mem →
    (∀ (a : Nat) (h : a < 80), s.resetPort.readByte a = fontByte s.cfg.font a h) ∧
    (∀ x : Nibble, s.resetPort.reg x = 0) ∧ s.resetPort.i = 0 ∧ s.resetPort.pc = 0x200#16 ∧ s.resetPort.sp = 0 ∧
    s.resetPort.dt = 0 ∧ s.resetPort.st = 0 ∧ (∀ (c : Fin 64) (r : Fin 32), s.resetPort.pix c r = false) ∧
    s.resetPort.mode = .running ∧ s.resetPort.edge = none ∧
    (∀ a : Nat, 80 ≤ a → s.resetPort.readByte a = s.readByte a) ∧ s.resetPort.key = s.key ∧ s.resetPort.cfg = s.cfg

/-- R270 (memory is 0 before a load by the spec's decision D24, log 7): a step before `load` halts with UnknownOpcode at
0x200. -/
def Obligations.UnloadedMachineHalts : Prop :=
  step State.reset = .next { State.reset with mode := .halted .unknownOpcode (some 0x0000#16) 0x200#16 }

/-- R273 (the spec's decision D25, log 19): a ROM of at most 0xE00 bytes stands at 0x200 and nothing else changes. -/
def Obligations.LoadWritesTheRom : Prop :=
  ∀ (s : State) (rom : List Byte), Memory.wf s.cfg.font s.mem → rom.length ≤ 0xE00 →
    ∃ t, s.load rom = .ok t ∧ (∀ (k : Nat) (h : k < rom.length), t.readByte (0x200 + k) = rom[k]) ∧
      ChangesOnly s t ((List.range rom.length).map fun k => .mem (0x200 + k))

/-- R274: an oversized ROM fails with ResourceError and changes no state. -/
def Obligations.OversizedLoadFails : Prop :=
  ∀ (s : State) (rom : List Byte), rom.length > 0xE00 →
    s.load rom = .error .resourceError ∧ HostOp.apply s (.load rom) = s

/-! ## Timers and the input latch (60_exceptions.md) -/

/-- R240 (in Halted too by the spec's decision D13, log 17): after n ticks each timer has gone down by n, with a floor at
0, and nothing else has changed. -/
def Obligations.TicksCountDown : Prop :=
  ∀ (s : State) (n : Nat),
    (runOps s (List.replicate n .tickTimers)).dt.toNat = s.dt.toNat - n ∧
    (runOps s (List.replicate n .tickTimers)).st.toNat = s.st.toNat - n ∧
    ChangesOnly s (runOps s (List.replicate n .tickTimers)) [.dt, .st]

/-- R241, R242 (the spec's decisions D10, D11, D30, log 16): `setKey` sets one level, and latches the code exactly when
it is a key-down edge, the engine awaits a key and no edge is latched. -/
def Obligations.SetKeyLatchesFirstEdge : Prop :=
  ∀ (s : State) (code : Nibble) (pressed : Bool),
    (s.setKey code pressed).keyDown code = pressed ∧
    (∀ k, k ≠ code → (s.setKey code pressed).keyDown k = s.keyDown k) ∧
    (s.mode.isAwaiting = true ∧ s.edge = none ∧ pressed = true ∧ s.keyDown code = false →
      (s.setKey code pressed).edge = some code) ∧
    (¬ (s.mode.isAwaiting = true ∧ s.edge = none ∧ pressed = true ∧ s.keyDown code = false) →
      (s.setKey code pressed).edge = s.edge) ∧
    ChangesOnly s (s.setKey code pressed) [.keys, .edge]

/-- R244 (by the spec's decision D10, log 16): a press and a release before the next step still satisfy the wait. -/
def Obligations.PressAndReleaseResolveTheWait : Prop :=
  ∀ (s : State) (x k : Nibble), s.mode = .awaitingKey x → s.edge = none → s.keyDown k = false →
    let t := runOps s [.setKey k true, .setKey k false, .step]
    (t.reg x).toNat = k.toNat ∧ PcAdvanced s t 2 ∧ t.mode = .running ∧ t.edge = none ∧ t.keyDown k = false

/-! ## Invariants and whole-machine rules -/

/-- R34, R35: the state at construction meets the invariant. -/
def Obligations.ConstructionMeetsInvariant : Prop := State.reset.Inv

/-- R34: every step keeps the invariant, from every state that meets it. -/
def Obligations.StepKeepsInvariant : Prop :=
  ∀ s t : State, s.Inv → step s = .next t → t.Inv

/-- R34: every host operation keeps the invariant, so every state that a sequence of host operations reaches from
construction meets it. -/
def Obligations.EveryRunMeetsInvariant : Prop :=
  (∀ (s : State) (op : HostOp), s.Inv → (HostOp.apply s op).Inv) ∧
  ∀ ops : List HostOp, (runOps State.reset ops).Inv

/-- R37: a stack entry at or above SP cannot be observed: two states that differ only there step to two states that
differ only there, whatever the step. -/
def Obligations.StackAboveSpIsUnobservable : Prop :=
  ∀ s t s' : State, SameBelowSp s t → step s = .next s' → ∃ t', step t = .next t' ∧ SameBelowSp s' t'

/-- The frame `ChangesOnly` leaves out no piece of the state: two states with canonical memories in which no piece
differs are equal. -/
def Obligations.FrameCoversTheState : Prop :=
  ∀ s t : State, Memory.wf s.cfg.font s.mem → Memory.wf t.cfg.font t.mem → ChangesOnly s t [] → s = t

/-- R25: only CALL and RET touch the call stack: another step leaves SP and every entry, and RET leaves every entry. -/
def Obligations.OnlyCallAndReturnTouchTheStack : Prop :=
  ∀ s t : State, step s = .next t → (∀ nnn, ¬ Fetches s (.call nnn)) →
    t.stack = s.stack ∧ (¬ Fetches s .ret → t.sp = s.sp)

/-- R183: no instruction but CLS and DRW writes the display, and no port but reset, which clears it as construction
does; the snapshot between calls is the buffer. -/
def Obligations.OnlyClearAndDrawWriteTheDisplay : Prop :=
  (∀ s t : State, step s = .next t → ¬ Fetches s .cls → (∀ x y n, ¬ Fetches s (.drw x y n)) → t.disp = s.disp) ∧
  (∀ (s : State) (op : HostOp), op ≠ .step → op ≠ .reset → (HostOp.apply s op).disp = s.disp) ∧
  (∀ s : State, (HostOp.apply s .reset).disp = blankDisplay ∧ s.displaySnapshot = s.disp) ∧
  State.reset.disp = blankDisplay

/-- R24 (12 bits by the spec's decision D3, log 14): I is written only by ANNN, FX1E and FX29; FX55 and FX65 leave it. -/
def Obligations.OnlyThreeInstructionsWriteI : Prop :=
  ∀ s t : State, step s = .next t → (∀ nnn, ¬ Fetches s (.ldINnn nnn)) → (∀ x, ¬ Fetches s (.addIVx x)) →
    (∀ x, ¬ Fetches s (.ldFVx x)) → t.i = s.i

/-- R26, R27, R243: no step moves a timer but FX15, which writes DT, and FX18, which writes ST. -/
def Obligations.StepsDoNotTick : Prop :=
  ∀ s t : State, step s = .next t →
    ((∀ x, ¬ Fetches s (.ldDtVx x)) → t.dt = s.dt) ∧ ((∀ x, ¬ Fetches s (.ldStVx x)) → t.st = s.st)

/-- R21 (the spec's decision D29, log 30): VF is written only as a destination named by the instruction, or as the flag by the
designated instructions. -/
def Obligations.VfIsWrittenOnlyByDesignatedInstructions : Prop :=
  ∀ (i : Instr) (s t : State), exec i s = .next t → ¬ MayWriteVf s i → t.reg vf = s.reg vf

/-- R30, R33, R50: no step writes a key level or a parameter, and no step but FX33 and FX55 writes a byte of memory. -/
def Obligations.OnlyTwoInstructionsWriteMemory : Prop :=
  ∀ s t : State, step s = .next t →
    t.key = s.key ∧ t.cfg = s.cfg ∧
    ((∀ x, ¬ Fetches s (.ldBVx x)) → (∀ x, ¬ Fetches s (.ldMemVx x)) → ∀ a, t.readByte a = s.readByte a)

/-! ## Control flow (41_flow.md) -/

/-- R111: 1NNN: `PC <- nnn`, and nothing else; a jump to its own address is a fixed point. -/
def Obligations.JumpSetsPc : Prop :=
  ∀ (nnn : Addr) (s : State),
    decode (0x1#4 ++ nnn) = .instr (.jp nnn) ∧
    ∃ t, exec (.jp nnn) s = .next t ∧ t.pc.toNat = nnn.toNat ∧ ChangesOnly s t [.pc] ∧
      (s.pc.toNat = nnn.toNat → t = s)

/-- R112: 2NNN: with SP < 16 the return address is pushed and PC is nnn; with SP = 16 it halts with StackOverflow. -/
def Obligations.CallPushesTheReturnAddress : Prop :=
  ∀ (nnn : Addr) (s : State),
    decode (0x2#4 ++ nnn) = .instr (.call nnn) ∧
    (∀ h : s.sp.val < 16,
      ∃ t, exec (.call nnn) s = .next t ∧ (t.stack[s.sp.val]).toNat = (s.pc.toNat + 2) % 0x1000 ∧
        t.sp.val = s.sp.val + 1 ∧ t.pc.toNat = nnn.toNat ∧
        ChangesOnly s t [.stackEntry ⟨s.sp.val, h⟩, .sp, .pc]) ∧
    (s.sp.val = 16 → exec (.call nnn) s =
      .next { s with mode := .halted .stackOverflow (some (encode (.call nnn))) s.pc })

/-- R110: 00EE: with SP > 0 the top entry is popped into PC (an entry in use is at most 0xFFF by R34; of a greater one,
in a state no run reaches, PC takes the low 12 bits, log 21); with SP = 0 it halts with StackUnderflow. -/
def Obligations.ReturnPopsTheStack : Prop :=
  ∀ s : State,
    decode 0x00EE#16 = .instr .ret ∧
    (∀ h : 0 < s.sp.val,
      ∃ t, exec .ret s = .next t ∧ t.pc.toNat = (s.stack[s.sp.val - 1]'(by omega)).toNat % 0x1000 ∧
        ((s.stack[s.sp.val - 1]'(by omega)).toNat ≤ 0xFFF → t.pc = s.stack[s.sp.val - 1]'(by omega)) ∧
        t.sp.val = s.sp.val - 1 ∧ ChangesOnly s t [.sp, .pc]) ∧
    (s.sp.val = 0 → exec .ret s = .next { s with mode := .halted .stackUnderflow (some 0x00EE#16) s.pc })

/-- R110, R112: a CALL and a RET at its target give the call site + 2 and the stack depth before. -/
def Obligations.CallThenReturnComesBack : Prop :=
  ∀ (nnn : Addr) (s : State), s.sp.val < 16 →
    ∃ t u, exec (.call nnn) s = .next t ∧ exec .ret t = .next u ∧ PcAdvanced s u 2 ∧ u.sp = s.sp

/-- R117 (mod 0x1000 by the spec's decision D3, log 14): PC is nnn + V0, and nothing else changes. -/
def Obligations.JumpWithOffsetAddsV0 : Prop :=
  ∀ (nnn : Addr) (s : State),
    ∃ t, exec (.jpV0 nnn) s = .next t ∧ t.pc.toNat = (nnn.toNat + (s.reg 0).toNat) % 0x1000 ∧
      ChangesOnly s t [.pc]

/-- R113-R116, R118 (the conditions are the spec's decision D16, from general knowledge, log 12): PC advances by 4 if the
condition holds and by 2 if not, and nothing else changes. -/
def Obligations.SkipsAdvanceByFourOrTwo : Prop :=
  ∀ (x y : Nibble) (nn : Byte) (s : State),
    (∃ t, exec (.seVxNn x nn) s = .next t ∧ PcAdvanced s t (if s.reg x = nn then 4 else 2) ∧
      ChangesOnly s t [.pc]) ∧
    (∃ t, exec (.sneVxNn x nn) s = .next t ∧ PcAdvanced s t (if s.reg x = nn then 2 else 4) ∧
      ChangesOnly s t [.pc]) ∧
    (∃ t, exec (.seVxVy x y) s = .next t ∧ PcAdvanced s t (if s.reg x = s.reg y then 4 else 2) ∧
      ChangesOnly s t [.pc]) ∧
    (∃ t, exec (.sneVxVy x y) s = .next t ∧ PcAdvanced s t (if s.reg x = s.reg y then 2 else 4) ∧
      ChangesOnly s t [.pc])

/-! ## Registers and the ALU (42_alu.md) -/

/-- R130, R132: 6XNN, 8XY0: Vx receives nn, or Vy; PC advances by 2; nothing else changes, VF only as the destination. -/
def Obligations.LoadsWriteVx : Prop :=
  ∀ (x y : Nibble) (nn : Byte) (s : State),
    decode (0x6#4 ++ (x ++ nn)) = .instr (.ldVxNn x nn) ∧
    decode (0x8#4 ++ (x ++ (y ++ 0x0#4))) = .instr (.ldVxVy x y) ∧
    (∃ t, exec (.ldVxNn x nn) s = .next t ∧ t.reg x = nn ∧ PcAdvanced s t 2 ∧ ChangesOnly s t [.reg x, .pc]) ∧
    (∃ t, exec (.ldVxVy x y) s = .next t ∧ t.reg x = s.reg y ∧ PcAdvanced s t 2 ∧ ChangesOnly s t [.reg x, .pc])

/-- R131: 7XNN: Vx + nn mod 0x100, VF unaffected unless it is the destination. -/
def Obligations.AddImmediateWraps : Prop :=
  ∀ (x : Nibble) (nn : Byte) (s : State),
    decode (0x7#4 ++ (x ++ nn)) = .instr (.addVxNn x nn) ∧
    ∃ t, exec (.addVxNn x nn) s = .next t ∧ (t.reg x).toNat = ((s.reg x).toNat + nn.toNat) % 0x100 ∧
      PcAdvanced s t 2 ∧ ChangesOnly s t [.reg x, .pc]

/-- R133, R134, R135: 8XY1, 8XY2, 8XY3: bit by bit OR, AND, XOR into Vx, with no flag. -/
def Obligations.BitwiseOperationsWriteVx : Prop :=
  ∀ (x y : Nibble) (s : State),
    decode (0x8#4 ++ (x ++ (y ++ 0x1#4))) = .instr (.or x y) ∧
    decode (0x8#4 ++ (x ++ (y ++ 0x2#4))) = .instr (.and x y) ∧
    decode (0x8#4 ++ (x ++ (y ++ 0x3#4))) = .instr (.xor x y) ∧
    (∃ t, exec (.or x y) s = .next t ∧
      (∀ k, (t.reg x).getLsbD k = ((s.reg x).getLsbD k || (s.reg y).getLsbD k)) ∧
      PcAdvanced s t 2 ∧ ChangesOnly s t [.reg x, .pc]) ∧
    (∃ t, exec (.and x y) s = .next t ∧
      (∀ k, (t.reg x).getLsbD k = ((s.reg x).getLsbD k && (s.reg y).getLsbD k)) ∧
      PcAdvanced s t 2 ∧ ChangesOnly s t [.reg x, .pc]) ∧
    (∃ t, exec (.xor x y) s = .next t ∧
      (∀ k, (t.reg x).getLsbD k = ((s.reg x).getLsbD k ^^ (s.reg y).getLsbD k)) ∧
      PcAdvanced s t 2 ∧ ChangesOnly s t [.reg x, .pc])

/-- R136, R142 (for x = 0xF VF ends as the flag by the spec's decision D7, log 11): the 8-bit sum and the carry. -/
def Obligations.AddWritesTheCarry : Prop :=
  ∀ (x y : Nibble) (s : State),
    ∃ t, exec (.addVxVy x y) s = .next t ∧
      (x ≠ vf → (t.reg x).toNat = ((s.reg x).toNat + (s.reg y).toNat) % 0x100) ∧
      t.reg vf = (if (s.reg x).toNat + (s.reg y).toNat > 0xFF then 1 else 0) ∧
      PcAdvanced s t 2 ∧ ChangesOnly s t [.reg x, .reg vf, .pc]

/-- R137, R139, R142 (decisions D7 and D32, logs 11 and 13): the 8-bit difference and the no-borrow flag, 1 for equal
operands. -/
def Obligations.SubtractWritesNoBorrow : Prop :=
  ∀ (x y : Nibble) (s : State),
    (∃ t, exec (.sub x y) s = .next t ∧
      (x ≠ vf → (t.reg x).toNat = ((s.reg x).toNat + 0x100 - (s.reg y).toNat) % 0x100) ∧
      t.reg vf = (if (s.reg x).toNat ≥ (s.reg y).toNat then 1 else 0) ∧
      PcAdvanced s t 2 ∧ ChangesOnly s t [.reg x, .reg vf, .pc]) ∧
    (∃ t, exec (.subn x y) s = .next t ∧
      (x ≠ vf → (t.reg x).toNat = ((s.reg y).toNat + 0x100 - (s.reg x).toNat) % 0x100) ∧
      t.reg vf = (if (s.reg y).toNat ≥ (s.reg x).toNat then 1 else 0) ∧
      PcAdvanced s t 2 ∧ ChangesOnly s t [.reg x, .reg vf, .pc])

/-- R138, R140 (decision D7, log 11): Vx shifted by one, whatever y is, and the bit shifted out in VF. -/
def Obligations.ShiftsWriteTheBitShiftedOut : Prop :=
  ∀ (x y : Nibble) (s : State),
    (∃ t, exec (.shr x y) s = .next t ∧ (x ≠ vf → (t.reg x).toNat = (s.reg x).toNat / 2) ∧
      (t.reg vf).toNat = (s.reg x).toNat % 2 ∧ PcAdvanced s t 2 ∧ ChangesOnly s t [.reg x, .reg vf, .pc]) ∧
    (∃ t, exec (.shl x y) s = .next t ∧ (x ≠ vf → (t.reg x).toNat = 2 * (s.reg x).toNat % 0x100) ∧
      (t.reg vf).toNat = (s.reg x).toNat / 0x80 ∧ PcAdvanced s t 2 ∧ ChangesOnly s t [.reg x, .reg vf, .pc])

/-- R141 (the draw is free by the spec's decision D15; its form as `Config.draw` at a counter is the model's, log 6):
Vx is the draw masked by nn, no bit outside nn is set, and the next RND takes another draw. -/
def Obligations.RandomByteIsMasked : Prop :=
  ∀ (x : Nibble) (nn : Byte) (s : State),
    ∃ t, exec (.rnd x nn) s = .next t ∧ t.reg x = Config.draw s.draws &&& nn ∧ t.reg x &&& ~~~nn = 0 ∧
      t.draws = s.draws + 1 ∧ PcAdvanced s t 2 ∧ ChangesOnly s t [.reg x, .pc, .draws]

/-! ## The index register and memory (43_index_memory.md) -/

/-- R160, R162: ANNN, FX29: I is nnn, or the address of the glyph of Vx's low nibble. -/
def Obligations.IndexIsSet : Prop :=
  ∀ (nnn : Addr) (x : Nibble) (s : State),
    decode (0xA#4 ++ nnn) = .instr (.ldINnn nnn) ∧ decode (0xF#4 ++ (x ++ 0x29#8)) = .instr (.ldFVx x) ∧
    (∃ t, exec (.ldINnn nnn) s = .next t ∧ t.i.toNat = nnn.toNat ∧ PcAdvanced s t 2 ∧
      ChangesOnly s t [.i, .pc]) ∧
    (∃ t, exec (.ldFVx x) s = .next t ∧ t.i.toNat = 5 * ((s.reg x).toNat % 16) ∧ PcAdvanced s t 2 ∧
      ChangesOnly s t [.i, .pc])

/-- R161 (parameter `P_FX1E_VF`, the threshold is the spec's decision D8, logs 3 and 25; x = 0xF by D7, log 11): the
12-bit sum; VF is written only under overflow, as the carry out of 12 bits. -/
def Obligations.AddToIndexWraps : Prop :=
  ∀ (x : Nibble) (s : State),
    ∃ t, exec (.addIVx x) s = .next t ∧ t.i.toNat = (s.i.toNat + (s.reg x).toNat) % 0x1000 ∧ PcAdvanced s t 2 ∧
      (s.cfg.fx1eVf = .unchanged → ChangesOnly s t [.i, .pc]) ∧
      (s.cfg.fx1eVf = .overflow →
        t.reg vf = (if s.i.toNat + (s.reg x).toNat > 0xFFF then 1 else 0) ∧ ChangesOnly s t [.i, .pc, .reg vf])

/-- R163 (addresses past 0xFFF by the spec's decision D2, log 1): three digits whose value is Vx, at I, I + 1 and I + 2,
and no other byte of memory. -/
def Obligations.DecimalDigitsAreStored : Prop :=
  ∀ (x : Nibble) (s : State), Memory.wf s.cfg.font s.mem → IndexInRange s 3 →
    ∃ t, exec (.ldBVx x) s = .next t ∧ s.indexed 3 = some [indexAddr s 0, indexAddr s 1, indexAddr s 2] ∧
      (s.reg x).toNat = 100 * (t.readByte (indexAddr s 0)).toNat + 10 * (t.readByte (indexAddr s 1)).toNat +
        (t.readByte (indexAddr s 2)).toNat ∧
      (t.readByte (indexAddr s 1)).toNat ≤ 9 ∧ (t.readByte (indexAddr s 2)).toNat ≤ 9 ∧ PcAdvanced s t 2 ∧
      ChangesOnly s t [.mem (indexAddr s 0), .mem (indexAddr s 1), .mem (indexAddr s 2), .pc]

/-- R164 (decisions D2 and D34, log 1): V0..Vx at I, I + 1, ..., and no other byte of memory; I unmodified. -/
def Obligations.RegistersAreStored : Prop :=
  ∀ (x : Nibble) (s : State), Memory.wf s.cfg.font s.mem → IndexInRange s (x.toNat + 1) →
    ∃ t, exec (.ldMemVx x) s = .next t ∧
      s.indexed (x.toNat + 1) = some ((List.range (x.toNat + 1)).map (indexAddr s)) ∧
      (∀ k : Nibble, k.toNat ≤ x.toNat → t.readByte (indexAddr s k.toNat) = s.reg k) ∧ PcAdvanced s t 2 ∧
      ChangesOnly s t (.pc :: (List.range (x.toNat + 1)).map fun k => .mem (indexAddr s k))

/-- R165 (decisions D2 and D34, log 1): V0..Vx from I, I + 1, ..., and no other register; I and memory unmodified. -/
def Obligations.RegistersAreLoaded : Prop :=
  ∀ (x : Nibble) (s : State), IndexInRange s (x.toNat + 1) →
    ∃ t, exec (.ldVxMem x) s = .next t ∧
      (∀ k : Nibble, k.toNat ≤ x.toNat → t.reg k = s.readByte (indexAddr s k.toNat)) ∧ PcAdvanced s t 2 ∧
      ChangesOnly s t (.pc :: (List.range (x.toNat + 1)).map fun k => .reg (BitVec.ofNat 4 k))

/-- R164, R165: an FX65 after an FX55 with the same x, whatever the registers hold in between, restores V0..Vx. -/
def Obligations.StoreThenLoadRestoresTheRegisters : Prop :=
  ∀ (x : Nibble) (s : State) (v' : Vector Byte 16), Memory.wf s.cfg.font s.mem → IndexInRange s (x.toNat + 1) →
    ∃ t u, exec (.ldMemVx x) s = .next t ∧ exec (.ldVxMem x) { t with v := v' } = .next u ∧
      ∀ k : Nibble, k.toNat ≤ x.toNat → u.reg k = s.reg k

/-- R51, R93, R95 (parameter `P_ADDR_OVERFLOW` = halt, the spec's decision D2, log 1): an instruction whose range passes
0xFFF halts before any write. -/
def Obligations.IndexedAccessPastTheEndHalts : Prop :=
  ∀ (x y n : Nibble) (s : State), s.cfg.addrOverflow = .halt →
    (s.i.toNat + 2 > 0xFFF → exec (.ldBVx x) s =
      .next { s with mode := .halted .addressOutOfRange (some (encode (.ldBVx x))) s.pc }) ∧
    (s.i.toNat + x.toNat > 0xFFF →
      exec (.ldMemVx x) s =
        .next { s with mode := .halted .addressOutOfRange (some (encode (.ldMemVx x))) s.pc } ∧
      exec (.ldVxMem x) s =
        .next { s with mode := .halted .addressOutOfRange (some (encode (.ldVxMem x))) s.pc }) ∧
    (1 ≤ n.toNat → s.i.toNat + n.toNat - 1 > 0xFFF → exec (.drw x y n) s =
      .next { s with mode := .halted .addressOutOfRange (some (encode (.drw x y n))) s.pc })

/-! ## The display (44_display.md) -/

/-- R181: 00E0: every pixel is 0, PC advances by 2, nothing else changes. -/
def Obligations.ClearBlanksTheDisplay : Prop :=
  ∀ s : State, decode 0x00E0#16 = .instr .cls ∧ ∃ t, exec .cls s = .next t ∧ (∀ (c : Fin 64) (r : Fin 32), t.pix c r = false) ∧
    PcAdvanced s t 2 ∧ ChangesOnly s t [.disp, .pc]

/-- R180, R182 (addresses by the spec's decision D2, VF as a coordinate by D7 and D33, logs 1 and 11): exactly the pixels
that the sprite covers are flipped, with wrapping on both axes; VF is 1 if one of them was set and 0 otherwise, also for
n = 0; I and memory are unchanged. -/
def Obligations.DrawFlipsTheCoveredPixels : Prop :=
  ∀ (x y n : Nibble) (s : State), IndexInRange s n.toNat →
    ∃ t, exec (.drw x y n) s = .next t ∧
      (∀ (c : Fin 64) (r : Fin 32), SpriteCovers s x y n c r → t.pix c r = !s.pix c r) ∧
      (∀ (c : Fin 64) (r : Fin 32), ¬ SpriteCovers s x y n c r → t.pix c r = s.pix c r) ∧
      ((∃ c r, SpriteCovers s x y n c r ∧ s.pix c r = true) → t.reg vf = 1) ∧
      ((∀ c r, SpriteCovers s x y n c r → s.pix c r = false) → t.reg vf = 0) ∧
      PcAdvanced s t 2 ∧ ChangesOnly s t [.disp, .reg vf, .pc]

/-- R182: drawing the same sprite twice at the same place (x and y not VF, which the first draw writes) gives the display
before; on a blank display the first draw reports no collision and the second one reports one exactly when the sprite
covers a pixel. -/
def Obligations.DrawingTwiceErases : Prop :=
  ∀ (x y n : Nibble) (s : State), x ≠ vf → y ≠ vf → IndexInRange s n.toNat →
    ∃ t u, exec (.drw x y n) s = .next t ∧ exec (.drw x y n) t = .next u ∧ u.disp = s.disp ∧
      (s.disp = blankDisplay → t.reg vf = 0 ∧ (u.reg vf = 1 ↔ ∃ c r, SpriteCovers s x y n c r))

/-! ## The keypad (45_keypad.md) -/

/-- R200, R201, R202 (the index above 0xF is the spec's decision D9, log 2): the level of the key `Vx & 0xF` decides the
skip; only under `P_KEY_INDEX` = halt does an index above 0xF halt instead. -/
def Obligations.KeySkipsFollowTheKeyLevel : Prop :=
  ∀ (x k : Nibble) (s : State), k.toNat = (s.reg x).toNat % 16 →
    ((s.cfg.keyIndex = .lowNibble ∨ (s.reg x).toNat ≤ 0xF) →
      (∃ t, exec (.skp x) s = .next t ∧ PcAdvanced s t (if s.keyDown k = true then 4 else 2) ∧
        ChangesOnly s t [.pc]) ∧
      (∃ t, exec (.sknp x) s = .next t ∧ PcAdvanced s t (if s.keyDown k = true then 2 else 4) ∧
        ChangesOnly s t [.pc])) ∧
    (s.cfg.keyIndex = .halt → (s.reg x).toNat > 0xF →
      exec (.skp x) s = .next { s with mode := .halted .keyIndexOutOfRange (some (encode (.skp x))) s.pc } ∧
      exec (.sknp x) s = .next { s with mode := .halted .keyIndexOutOfRange (some (encode (.sknp x))) s.pc })

/-- R203 (the spec's decisions D10, D11, log 16): FX0A awaits a key for Vx with the latch empty, PC and all else
unchanged. -/
def Obligations.WaitForKeySuspends : Prop :=
  ∀ (x : Nibble) (s : State),
    ∃ t, exec (.ldVxK x) s = .next t ∧ t.mode = .awaitingKey x ∧ t.edge = none ∧ ChangesOnly s t [.mode, .edge]

/-! ## The timer instructions (46_timers.md) -/

/-- R220, R221: Vx receives DT; DT receives Vx. -/
def Obligations.DelayTimerIsReadAndSet : Prop :=
  ∀ (x : Nibble) (s : State),
    (∃ t, exec (.ldVxDt x) s = .next t ∧ t.reg x = s.dt ∧ PcAdvanced s t 2 ∧ ChangesOnly s t [.reg x, .pc]) ∧
    (∃ t, exec (.ldDtVx x) s = .next t ∧ t.dt = s.reg x ∧ PcAdvanced s t 2 ∧ ChangesOnly s t [.dt, .pc])

/-- R222, R245 (the sound output by the spec's decision D14, log 18): ST receives Vx, and sound is active while it is not
0. -/
def Obligations.SoundTimerIsSet : Prop :=
  ∀ (x : Nibble) (s : State),
    ∃ t, exec (.ldStVx x) s = .next t ∧ t.st = s.reg x ∧ (t.soundActive = true ↔ s.reg x ≠ 0) ∧
      PcAdvanced s t 2 ∧ ChangesOnly s t [.st, .pc]
end

