-- ==== Sys2Proof/Laws/Decode.lean ====
section
/-! SUPPORT. The fields of the three word shapes of 30_encoding.md R70, and the bytes of a word (R56). -/

namespace Sys2Proof

/-- R70: the fields of a word with an `nnn` operand. -/
theorem fieldsOf_nnnWord (family : Nibble) (nnn : Addr) :
    (fieldsOf (nnnWord family nnn)).family = family ∧ (fieldsOf (nnnWord family nnn)).nnn = nnn := by
  refine ⟨?_, ?_⟩ <;> apply BitVec.eq_of_getLsbD_eq <;> intro i hi <;>
    simp only [fieldsOf, nnnWord, BitVec.getLsbD_extractLsb', BitVec.getLsbD_append] <;> grind

/-- R70: the fields of a word with `x` and `nn`. -/
theorem fieldsOf_xnnWord (family x : Nibble) (nn : Byte) :
    (fieldsOf (xnnWord family x nn)).family = family ∧ (fieldsOf (xnnWord family x nn)).x = x ∧
      (fieldsOf (xnnWord family x nn)).nn = nn := by
  refine ⟨?_, ?_, ?_⟩ <;> apply BitVec.eq_of_getLsbD_eq <;> intro i hi <;>
    simp only [fieldsOf, xnnWord, BitVec.getLsbD_extractLsb', BitVec.getLsbD_append] <;> grind

/-- R70: the fields of a word with `x`, `y` and `n`. -/
theorem fieldsOf_xynWord (family x y n : Nibble) :
    (fieldsOf (xynWord family x y n)).family = family ∧ (fieldsOf (xynWord family x y n)).x = x ∧
      (fieldsOf (xynWord family x y n)).y = y ∧ (fieldsOf (xynWord family x y n)).n = n := by
  refine ⟨?_, ?_, ?_, ?_⟩ <;> apply BitVec.eq_of_getLsbD_eq <;> intro i hi <;>
    simp only [fieldsOf, xynWord, BitVec.getLsbD_extractLsb', BitVec.getLsbD_append] <;> grind

/-- R70: a word is its family and its nnn. -/
theorem nnnWord_fieldsOf (w : Word) : nnnWord (fieldsOf w).family (fieldsOf w).nnn = w := by
  apply BitVec.eq_of_getLsbD_eq
  intro i hi
  simp only [fieldsOf, nnnWord, BitVec.getLsbD_extractLsb', BitVec.getLsbD_append]
  grind

/-- R70: a word is its family, its x and its nn. -/
theorem xnnWord_fieldsOf (w : Word) : xnnWord (fieldsOf w).family (fieldsOf w).x (fieldsOf w).nn = w := by
  apply BitVec.eq_of_getLsbD_eq
  intro i hi
  simp only [fieldsOf, xnnWord, BitVec.getLsbD_extractLsb', BitVec.getLsbD_append]
  grind

/-- R70: a word is its four nibbles. -/
theorem xynWord_fieldsOf (w : Word) :
    xynWord (fieldsOf w).family (fieldsOf w).x (fieldsOf w).y (fieldsOf w).n = w := by
  apply BitVec.eq_of_getLsbD_eq
  intro i hi
  simp only [fieldsOf, xynWord, BitVec.getLsbD_extractLsb', BitVec.getLsbD_append]
  grind

/-- R70: the fields of any word agree in their overlaps. -/
theorem fieldsOf_wellFormed (w : Word) : (fieldsOf w).wellFormed = true := by
  have h1 : (fieldsOf w).nn = (fieldsOf w).y ++ (fieldsOf w).n := by
    apply BitVec.eq_of_getLsbD_eq
    intro i hi
    simp only [fieldsOf, BitVec.getLsbD_extractLsb', BitVec.getLsbD_append]
    grind
  have h2 : (fieldsOf w).nnn = (fieldsOf w).x ++ ((fieldsOf w).y ++ (fieldsOf w).n) := by
    apply BitVec.eq_of_getLsbD_eq
    intro i hi
    simp only [fieldsOf, BitVec.getLsbD_extractLsb', BitVec.getLsbD_append]
    grind
  simp [Fields.wellFormed, Fields.nnAgrees, Fields.nnnAgrees, h1, h2]

/-- R56: the two bytes of a word make the word again. -/
@[simp] theorem wordOfBytes_hi_lo (w : Word) : wordOfBytes (hiByte w) (loByte w) = w := by
  apply BitVec.eq_of_getLsbD_eq
  intro i hi
  simp only [wordOfBytes, hiByte, loByte, BitVec.getLsbD_extractLsb', BitVec.getLsbD_append]
  grind

/-- R56: `zext_16(hi) << 8 | zext_16(lo)`. -/
theorem wordOfBytes_eq_shift_or (hi lo : Byte) :
    wordOfBytes hi lo = (hi.setWidth 16 <<< 8) ||| lo.setWidth 16 := by
  apply BitVec.eq_of_getLsbD_eq
  intro i h
  simp only [wordOfBytes, BitVec.getLsbD_append, BitVec.getLsbD_or, BitVec.getLsbD_shiftLeft,
    BitVec.getLsbD_setWidth]
  by_cases h8 : i < 8
  · simp only [h8, h, if_true, decide_true, Bool.not_true, Bool.and_false, Bool.false_and, Bool.false_or,
      Bool.true_and]
  · have hlo := BitVec.getLsbD_of_ge lo i (by omega)
    have h16 : i - 8 < 16 := by omega
    simp [h8, h, hlo, h16]

/-- R73: the Unknown variant carries the word that was decoded. -/
theorem decode_unknown_word (w w' : Word) (h : decode w = .unknown w') : w' = w := by
  unfold decode decodeFamily0 decodeFamily8 decodeFamilyE decodeFamilyF at h
  simp only at h
  repeat' split at h
  all_goals first
    | exact (Decoded.unknown.inj h).symm
    | exact Decoded.noConfusion h

end Sys2Proof
end

