-- ==== Sys2Proof/Laws/State.lean ====
section
/-! SUPPORT. What each named update of the state does to each field, and to the accessors `reg`, `readByte`, `addr` and
`keyDown`: the simp set by which no proof unfolds a record update. -/

namespace Sys2Proof.Machine

variable (s : State)

/-! ### `writeByte` -/

@[simp] theorem State.writeByte_v (a : Nat) (y : Byte) : (s.writeByte a y).v = s.v := rfl
@[simp] theorem State.writeByte_i (a : Nat) (y : Byte) : (s.writeByte a y).i = s.i := rfl
@[simp] theorem State.writeByte_pc (a : Nat) (y : Byte) : (s.writeByte a y).pc = s.pc := rfl
@[simp] theorem State.writeByte_sp (a : Nat) (y : Byte) : (s.writeByte a y).sp = s.sp := rfl
@[simp] theorem State.writeByte_stack (a : Nat) (y : Byte) : (s.writeByte a y).stack = s.stack := rfl
@[simp] theorem State.writeByte_dt (a : Nat) (y : Byte) : (s.writeByte a y).dt = s.dt := rfl
@[simp] theorem State.writeByte_st (a : Nat) (y : Byte) : (s.writeByte a y).st = s.st := rfl
@[simp] theorem State.writeByte_disp (a : Nat) (y : Byte) : (s.writeByte a y).disp = s.disp := rfl
@[simp] theorem State.writeByte_key (a : Nat) (y : Byte) : (s.writeByte a y).key = s.key := rfl
@[simp] theorem State.writeByte_mode (a : Nat) (y : Byte) : (s.writeByte a y).mode = s.mode := rfl
@[simp] theorem State.writeByte_edge (a : Nat) (y : Byte) : (s.writeByte a y).edge = s.edge := rfl
@[simp] theorem State.writeByte_cfg (a : Nat) (y : Byte) : (s.writeByte a y).cfg = s.cfg := rfl
@[simp] theorem State.writeByte_draws (a : Nat) (y : Byte) : (s.writeByte a y).draws = s.draws := rfl
@[simp] theorem State.writeByte_reg (a : Nat) (y : Byte) (z : Nibble) : (s.writeByte a y).reg z = s.reg z := rfl
@[simp] theorem State.writeByte_addr (a : Nat) (y : Byte) (z : Nat) : (s.writeByte a y).addr z = s.addr z := rfl
@[simp] theorem State.writeByte_keyDown (a : Nat) (y : Byte) (z : Nibble) : (s.writeByte a y).keyDown z = s.keyDown z := rfl

/-! ### `setReg` -/

@[simp] theorem State.setReg_mem (x : Nibble) (y : Byte) : (s.setReg x y).mem = s.mem := rfl
@[simp] theorem State.setReg_i (x : Nibble) (y : Byte) : (s.setReg x y).i = s.i := rfl
@[simp] theorem State.setReg_pc (x : Nibble) (y : Byte) : (s.setReg x y).pc = s.pc := rfl
@[simp] theorem State.setReg_sp (x : Nibble) (y : Byte) : (s.setReg x y).sp = s.sp := rfl
@[simp] theorem State.setReg_stack (x : Nibble) (y : Byte) : (s.setReg x y).stack = s.stack := rfl
@[simp] theorem State.setReg_dt (x : Nibble) (y : Byte) : (s.setReg x y).dt = s.dt := rfl
@[simp] theorem State.setReg_st (x : Nibble) (y : Byte) : (s.setReg x y).st = s.st := rfl
@[simp] theorem State.setReg_disp (x : Nibble) (y : Byte) : (s.setReg x y).disp = s.disp := rfl
@[simp] theorem State.setReg_key (x : Nibble) (y : Byte) : (s.setReg x y).key = s.key := rfl
@[simp] theorem State.setReg_mode (x : Nibble) (y : Byte) : (s.setReg x y).mode = s.mode := rfl
@[simp] theorem State.setReg_edge (x : Nibble) (y : Byte) : (s.setReg x y).edge = s.edge := rfl
@[simp] theorem State.setReg_cfg (x : Nibble) (y : Byte) : (s.setReg x y).cfg = s.cfg := rfl
@[simp] theorem State.setReg_draws (x : Nibble) (y : Byte) : (s.setReg x y).draws = s.draws := rfl
@[simp] theorem State.setReg_readByte (x : Nibble) (y : Byte) (z : Nat) : (s.setReg x y).readByte z = s.readByte z := rfl
@[simp] theorem State.setReg_addr (x : Nibble) (y : Byte) (z : Nat) : (s.setReg x y).addr z = s.addr z := rfl
@[simp] theorem State.setReg_keyDown (x : Nibble) (y : Byte) (z : Nibble) : (s.setReg x y).keyDown z = s.keyDown z := rfl

/-! ### `setI` -/

@[simp] theorem State.setI_mem (a : Nat) : (s.setI a).mem = s.mem := rfl
@[simp] theorem State.setI_v (a : Nat) : (s.setI a).v = s.v := rfl
@[simp] theorem State.setI_i (a : Nat) : (s.setI a).i = low12 a := rfl
@[simp] theorem State.setI_pc (a : Nat) : (s.setI a).pc = s.pc := rfl
@[simp] theorem State.setI_sp (a : Nat) : (s.setI a).sp = s.sp := rfl
@[simp] theorem State.setI_stack (a : Nat) : (s.setI a).stack = s.stack := rfl
@[simp] theorem State.setI_dt (a : Nat) : (s.setI a).dt = s.dt := rfl
@[simp] theorem State.setI_st (a : Nat) : (s.setI a).st = s.st := rfl
@[simp] theorem State.setI_disp (a : Nat) : (s.setI a).disp = s.disp := rfl
@[simp] theorem State.setI_key (a : Nat) : (s.setI a).key = s.key := rfl
@[simp] theorem State.setI_mode (a : Nat) : (s.setI a).mode = s.mode := rfl
@[simp] theorem State.setI_edge (a : Nat) : (s.setI a).edge = s.edge := rfl
@[simp] theorem State.setI_cfg (a : Nat) : (s.setI a).cfg = s.cfg := rfl
@[simp] theorem State.setI_draws (a : Nat) : (s.setI a).draws = s.draws := rfl
@[simp] theorem State.setI_reg (a : Nat) (z : Nibble) : (s.setI a).reg z = s.reg z := rfl
@[simp] theorem State.setI_readByte (a : Nat) (z : Nat) : (s.setI a).readByte z = s.readByte z := rfl
@[simp] theorem State.setI_addr (a : Nat) (z : Nat) : (s.setI a).addr z = s.addr z := rfl
@[simp] theorem State.setI_keyDown (a : Nat) (z : Nibble) : (s.setI a).keyDown z = s.keyDown z := rfl

/-! ### `setPc` -/

@[simp] theorem State.setPc_mem (a : Nat) : (s.setPc a).mem = s.mem := rfl
@[simp] theorem State.setPc_v (a : Nat) : (s.setPc a).v = s.v := rfl
@[simp] theorem State.setPc_i (a : Nat) : (s.setPc a).i = s.i := rfl
@[simp] theorem State.setPc_pc (a : Nat) : (s.setPc a).pc = low12 a := rfl
@[simp] theorem State.setPc_sp (a : Nat) : (s.setPc a).sp = s.sp := rfl
@[simp] theorem State.setPc_stack (a : Nat) : (s.setPc a).stack = s.stack := rfl
@[simp] theorem State.setPc_dt (a : Nat) : (s.setPc a).dt = s.dt := rfl
@[simp] theorem State.setPc_st (a : Nat) : (s.setPc a).st = s.st := rfl
@[simp] theorem State.setPc_disp (a : Nat) : (s.setPc a).disp = s.disp := rfl
@[simp] theorem State.setPc_key (a : Nat) : (s.setPc a).key = s.key := rfl
@[simp] theorem State.setPc_mode (a : Nat) : (s.setPc a).mode = s.mode := rfl
@[simp] theorem State.setPc_edge (a : Nat) : (s.setPc a).edge = s.edge := rfl
@[simp] theorem State.setPc_cfg (a : Nat) : (s.setPc a).cfg = s.cfg := rfl
@[simp] theorem State.setPc_draws (a : Nat) : (s.setPc a).draws = s.draws := rfl
@[simp] theorem State.setPc_reg (a : Nat) (z : Nibble) : (s.setPc a).reg z = s.reg z := rfl
@[simp] theorem State.setPc_readByte (a : Nat) (z : Nat) : (s.setPc a).readByte z = s.readByte z := rfl
@[simp] theorem State.setPc_addr (a : Nat) (z : Nat) : (s.setPc a).addr z = s.addr z := rfl
@[simp] theorem State.setPc_keyDown (a : Nat) (z : Nibble) : (s.setPc a).keyDown z = s.keyDown z := rfl

/-! ### `setSp` -/

@[simp] theorem State.setSp_mem (k : Fin 17) : (s.setSp k).mem = s.mem := rfl
@[simp] theorem State.setSp_v (k : Fin 17) : (s.setSp k).v = s.v := rfl
@[simp] theorem State.setSp_i (k : Fin 17) : (s.setSp k).i = s.i := rfl
@[simp] theorem State.setSp_pc (k : Fin 17) : (s.setSp k).pc = s.pc := rfl
@[simp] theorem State.setSp_sp (k : Fin 17) : (s.setSp k).sp = k := rfl
@[simp] theorem State.setSp_stack (k : Fin 17) : (s.setSp k).stack = s.stack := rfl
@[simp] theorem State.setSp_dt (k : Fin 17) : (s.setSp k).dt = s.dt := rfl
@[simp] theorem State.setSp_st (k : Fin 17) : (s.setSp k).st = s.st := rfl
@[simp] theorem State.setSp_disp (k : Fin 17) : (s.setSp k).disp = s.disp := rfl
@[simp] theorem State.setSp_key (k : Fin 17) : (s.setSp k).key = s.key := rfl
@[simp] theorem State.setSp_mode (k : Fin 17) : (s.setSp k).mode = s.mode := rfl
@[simp] theorem State.setSp_edge (k : Fin 17) : (s.setSp k).edge = s.edge := rfl
@[simp] theorem State.setSp_cfg (k : Fin 17) : (s.setSp k).cfg = s.cfg := rfl
@[simp] theorem State.setSp_draws (k : Fin 17) : (s.setSp k).draws = s.draws := rfl
@[simp] theorem State.setSp_reg (k : Fin 17) (z : Nibble) : (s.setSp k).reg z = s.reg z := rfl
@[simp] theorem State.setSp_readByte (k : Fin 17) (z : Nat) : (s.setSp k).readByte z = s.readByte z := rfl
@[simp] theorem State.setSp_addr (k : Fin 17) (z : Nat) : (s.setSp k).addr z = s.addr z := rfl
@[simp] theorem State.setSp_keyDown (k : Fin 17) (z : Nibble) : (s.setSp k).keyDown z = s.keyDown z := rfl

/-! ### `setStackEntry` -/

@[simp] theorem State.setStackEntry_mem (k : Fin 16) (w : Word) : (s.setStackEntry k w).mem = s.mem := rfl
@[simp] theorem State.setStackEntry_v (k : Fin 16) (w : Word) : (s.setStackEntry k w).v = s.v := rfl
@[simp] theorem State.setStackEntry_i (k : Fin 16) (w : Word) : (s.setStackEntry k w).i = s.i := rfl
@[simp] theorem State.setStackEntry_pc (k : Fin 16) (w : Word) : (s.setStackEntry k w).pc = s.pc := rfl
@[simp] theorem State.setStackEntry_sp (k : Fin 16) (w : Word) : (s.setStackEntry k w).sp = s.sp := rfl
@[simp] theorem State.setStackEntry_stack (k : Fin 16) (w : Word) : (s.setStackEntry k w).stack = s.stack.set k.val w := rfl
@[simp] theorem State.setStackEntry_dt (k : Fin 16) (w : Word) : (s.setStackEntry k w).dt = s.dt := rfl
@[simp] theorem State.setStackEntry_st (k : Fin 16) (w : Word) : (s.setStackEntry k w).st = s.st := rfl
@[simp] theorem State.setStackEntry_disp (k : Fin 16) (w : Word) : (s.setStackEntry k w).disp = s.disp := rfl
@[simp] theorem State.setStackEntry_key (k : Fin 16) (w : Word) : (s.setStackEntry k w).key = s.key := rfl
@[simp] theorem State.setStackEntry_mode (k : Fin 16) (w : Word) : (s.setStackEntry k w).mode = s.mode := rfl
@[simp] theorem State.setStackEntry_edge (k : Fin 16) (w : Word) : (s.setStackEntry k w).edge = s.edge := rfl
@[simp] theorem State.setStackEntry_cfg (k : Fin 16) (w : Word) : (s.setStackEntry k w).cfg = s.cfg := rfl
@[simp] theorem State.setStackEntry_draws (k : Fin 16) (w : Word) : (s.setStackEntry k w).draws = s.draws := rfl
@[simp] theorem State.setStackEntry_reg (k : Fin 16) (w : Word) (z : Nibble) : (s.setStackEntry k w).reg z = s.reg z := rfl
@[simp] theorem State.setStackEntry_readByte (k : Fin 16) (w : Word) (z : Nat) : (s.setStackEntry k w).readByte z = s.readByte z := rfl
@[simp] theorem State.setStackEntry_addr (k : Fin 16) (w : Word) (z : Nat) : (s.setStackEntry k w).addr z = s.addr z := rfl
@[simp] theorem State.setStackEntry_keyDown (k : Fin 16) (w : Word) (z : Nibble) : (s.setStackEntry k w).keyDown z = s.keyDown z := rfl

/-! ### `setDt` -/

@[simp] theorem State.setDt_mem (y : Byte) : (s.setDt y).mem = s.mem := rfl
@[simp] theorem State.setDt_v (y : Byte) : (s.setDt y).v = s.v := rfl
@[simp] theorem State.setDt_i (y : Byte) : (s.setDt y).i = s.i := rfl
@[simp] theorem State.setDt_pc (y : Byte) : (s.setDt y).pc = s.pc := rfl
@[simp] theorem State.setDt_sp (y : Byte) : (s.setDt y).sp = s.sp := rfl
@[simp] theorem State.setDt_stack (y : Byte) : (s.setDt y).stack = s.stack := rfl
@[simp] theorem State.setDt_dt (y : Byte) : (s.setDt y).dt = y := rfl
@[simp] theorem State.setDt_st (y : Byte) : (s.setDt y).st = s.st := rfl
@[simp] theorem State.setDt_disp (y : Byte) : (s.setDt y).disp = s.disp := rfl
@[simp] theorem State.setDt_key (y : Byte) : (s.setDt y).key = s.key := rfl
@[simp] theorem State.setDt_mode (y : Byte) : (s.setDt y).mode = s.mode := rfl
@[simp] theorem State.setDt_edge (y : Byte) : (s.setDt y).edge = s.edge := rfl
@[simp] theorem State.setDt_cfg (y : Byte) : (s.setDt y).cfg = s.cfg := rfl
@[simp] theorem State.setDt_draws (y : Byte) : (s.setDt y).draws = s.draws := rfl
@[simp] theorem State.setDt_reg (y : Byte) (z : Nibble) : (s.setDt y).reg z = s.reg z := rfl
@[simp] theorem State.setDt_readByte (y : Byte) (z : Nat) : (s.setDt y).readByte z = s.readByte z := rfl
@[simp] theorem State.setDt_addr (y : Byte) (z : Nat) : (s.setDt y).addr z = s.addr z := rfl
@[simp] theorem State.setDt_keyDown (y : Byte) (z : Nibble) : (s.setDt y).keyDown z = s.keyDown z := rfl

/-! ### `setSt` -/

@[simp] theorem State.setSt_mem (y : Byte) : (s.setSt y).mem = s.mem := rfl
@[simp] theorem State.setSt_v (y : Byte) : (s.setSt y).v = s.v := rfl
@[simp] theorem State.setSt_i (y : Byte) : (s.setSt y).i = s.i := rfl
@[simp] theorem State.setSt_pc (y : Byte) : (s.setSt y).pc = s.pc := rfl
@[simp] theorem State.setSt_sp (y : Byte) : (s.setSt y).sp = s.sp := rfl
@[simp] theorem State.setSt_stack (y : Byte) : (s.setSt y).stack = s.stack := rfl
@[simp] theorem State.setSt_dt (y : Byte) : (s.setSt y).dt = s.dt := rfl
@[simp] theorem State.setSt_st (y : Byte) : (s.setSt y).st = y := rfl
@[simp] theorem State.setSt_disp (y : Byte) : (s.setSt y).disp = s.disp := rfl
@[simp] theorem State.setSt_key (y : Byte) : (s.setSt y).key = s.key := rfl
@[simp] theorem State.setSt_mode (y : Byte) : (s.setSt y).mode = s.mode := rfl
@[simp] theorem State.setSt_edge (y : Byte) : (s.setSt y).edge = s.edge := rfl
@[simp] theorem State.setSt_cfg (y : Byte) : (s.setSt y).cfg = s.cfg := rfl
@[simp] theorem State.setSt_draws (y : Byte) : (s.setSt y).draws = s.draws := rfl
@[simp] theorem State.setSt_reg (y : Byte) (z : Nibble) : (s.setSt y).reg z = s.reg z := rfl
@[simp] theorem State.setSt_readByte (y : Byte) (z : Nat) : (s.setSt y).readByte z = s.readByte z := rfl
@[simp] theorem State.setSt_addr (y : Byte) (z : Nat) : (s.setSt y).addr z = s.addr z := rfl
@[simp] theorem State.setSt_keyDown (y : Byte) (z : Nibble) : (s.setSt y).keyDown z = s.keyDown z := rfl

/-! ### `setDisp` -/

@[simp] theorem State.setDisp_mem (d : Display) : (s.setDisp d).mem = s.mem := rfl
@[simp] theorem State.setDisp_v (d : Display) : (s.setDisp d).v = s.v := rfl
@[simp] theorem State.setDisp_i (d : Display) : (s.setDisp d).i = s.i := rfl
@[simp] theorem State.setDisp_pc (d : Display) : (s.setDisp d).pc = s.pc := rfl
@[simp] theorem State.setDisp_sp (d : Display) : (s.setDisp d).sp = s.sp := rfl
@[simp] theorem State.setDisp_stack (d : Display) : (s.setDisp d).stack = s.stack := rfl
@[simp] theorem State.setDisp_dt (d : Display) : (s.setDisp d).dt = s.dt := rfl
@[simp] theorem State.setDisp_st (d : Display) : (s.setDisp d).st = s.st := rfl
@[simp] theorem State.setDisp_disp (d : Display) : (s.setDisp d).disp = d := rfl
@[simp] theorem State.setDisp_key (d : Display) : (s.setDisp d).key = s.key := rfl
@[simp] theorem State.setDisp_mode (d : Display) : (s.setDisp d).mode = s.mode := rfl
@[simp] theorem State.setDisp_edge (d : Display) : (s.setDisp d).edge = s.edge := rfl
@[simp] theorem State.setDisp_cfg (d : Display) : (s.setDisp d).cfg = s.cfg := rfl
@[simp] theorem State.setDisp_draws (d : Display) : (s.setDisp d).draws = s.draws := rfl
@[simp] theorem State.setDisp_reg (d : Display) (z : Nibble) : (s.setDisp d).reg z = s.reg z := rfl
@[simp] theorem State.setDisp_readByte (d : Display) (z : Nat) : (s.setDisp d).readByte z = s.readByte z := rfl
@[simp] theorem State.setDisp_addr (d : Display) (z : Nat) : (s.setDisp d).addr z = s.addr z := rfl
@[simp] theorem State.setDisp_keyDown (d : Display) (z : Nibble) : (s.setDisp d).keyDown z = s.keyDown z := rfl

/-! ### `setKeyLevel` -/

@[simp] theorem State.setKeyLevel_mem (k : Nibble) (b : Bool) : (s.setKeyLevel k b).mem = s.mem := rfl
@[simp] theorem State.setKeyLevel_v (k : Nibble) (b : Bool) : (s.setKeyLevel k b).v = s.v := rfl
@[simp] theorem State.setKeyLevel_i (k : Nibble) (b : Bool) : (s.setKeyLevel k b).i = s.i := rfl
@[simp] theorem State.setKeyLevel_pc (k : Nibble) (b : Bool) : (s.setKeyLevel k b).pc = s.pc := rfl
@[simp] theorem State.setKeyLevel_sp (k : Nibble) (b : Bool) : (s.setKeyLevel k b).sp = s.sp := rfl
@[simp] theorem State.setKeyLevel_stack (k : Nibble) (b : Bool) : (s.setKeyLevel k b).stack = s.stack := rfl
@[simp] theorem State.setKeyLevel_dt (k : Nibble) (b : Bool) : (s.setKeyLevel k b).dt = s.dt := rfl
@[simp] theorem State.setKeyLevel_st (k : Nibble) (b : Bool) : (s.setKeyLevel k b).st = s.st := rfl
@[simp] theorem State.setKeyLevel_disp (k : Nibble) (b : Bool) : (s.setKeyLevel k b).disp = s.disp := rfl
@[simp] theorem State.setKeyLevel_key (k : Nibble) (b : Bool) : (s.setKeyLevel k b).key = s.key.set k.toNat b := rfl
@[simp] theorem State.setKeyLevel_mode (k : Nibble) (b : Bool) : (s.setKeyLevel k b).mode = s.mode := rfl
@[simp] theorem State.setKeyLevel_edge (k : Nibble) (b : Bool) : (s.setKeyLevel k b).edge = s.edge := rfl
@[simp] theorem State.setKeyLevel_cfg (k : Nibble) (b : Bool) : (s.setKeyLevel k b).cfg = s.cfg := rfl
@[simp] theorem State.setKeyLevel_draws (k : Nibble) (b : Bool) : (s.setKeyLevel k b).draws = s.draws := rfl
@[simp] theorem State.setKeyLevel_reg (k : Nibble) (b : Bool) (z : Nibble) : (s.setKeyLevel k b).reg z = s.reg z := rfl
@[simp] theorem State.setKeyLevel_readByte (k : Nibble) (b : Bool) (z : Nat) : (s.setKeyLevel k b).readByte z = s.readByte z := rfl
@[simp] theorem State.setKeyLevel_addr (k : Nibble) (b : Bool) (z : Nat) : (s.setKeyLevel k b).addr z = s.addr z := rfl

/-! ### `setMode` -/

@[simp] theorem State.setMode_mem (m : Mode) : (s.setMode m).mem = s.mem := rfl
@[simp] theorem State.setMode_v (m : Mode) : (s.setMode m).v = s.v := rfl
@[simp] theorem State.setMode_i (m : Mode) : (s.setMode m).i = s.i := rfl
@[simp] theorem State.setMode_pc (m : Mode) : (s.setMode m).pc = s.pc := rfl
@[simp] theorem State.setMode_sp (m : Mode) : (s.setMode m).sp = s.sp := rfl
@[simp] theorem State.setMode_stack (m : Mode) : (s.setMode m).stack = s.stack := rfl
@[simp] theorem State.setMode_dt (m : Mode) : (s.setMode m).dt = s.dt := rfl
@[simp] theorem State.setMode_st (m : Mode) : (s.setMode m).st = s.st := rfl
@[simp] theorem State.setMode_disp (m : Mode) : (s.setMode m).disp = s.disp := rfl
@[simp] theorem State.setMode_key (m : Mode) : (s.setMode m).key = s.key := rfl
@[simp] theorem State.setMode_mode (m : Mode) : (s.setMode m).mode = m := rfl
@[simp] theorem State.setMode_edge (m : Mode) : (s.setMode m).edge = s.edge := rfl
@[simp] theorem State.setMode_cfg (m : Mode) : (s.setMode m).cfg = s.cfg := rfl
@[simp] theorem State.setMode_draws (m : Mode) : (s.setMode m).draws = s.draws := rfl
@[simp] theorem State.setMode_reg (m : Mode) (z : Nibble) : (s.setMode m).reg z = s.reg z := rfl
@[simp] theorem State.setMode_readByte (m : Mode) (z : Nat) : (s.setMode m).readByte z = s.readByte z := rfl
@[simp] theorem State.setMode_addr (m : Mode) (z : Nat) : (s.setMode m).addr z = s.addr z := rfl
@[simp] theorem State.setMode_keyDown (m : Mode) (z : Nibble) : (s.setMode m).keyDown z = s.keyDown z := rfl

/-! ### `setEdge` -/

@[simp] theorem State.setEdge_mem (e : Option Nibble) : (s.setEdge e).mem = s.mem := rfl
@[simp] theorem State.setEdge_v (e : Option Nibble) : (s.setEdge e).v = s.v := rfl
@[simp] theorem State.setEdge_i (e : Option Nibble) : (s.setEdge e).i = s.i := rfl
@[simp] theorem State.setEdge_pc (e : Option Nibble) : (s.setEdge e).pc = s.pc := rfl
@[simp] theorem State.setEdge_sp (e : Option Nibble) : (s.setEdge e).sp = s.sp := rfl
@[simp] theorem State.setEdge_stack (e : Option Nibble) : (s.setEdge e).stack = s.stack := rfl
@[simp] theorem State.setEdge_dt (e : Option Nibble) : (s.setEdge e).dt = s.dt := rfl
@[simp] theorem State.setEdge_st (e : Option Nibble) : (s.setEdge e).st = s.st := rfl
@[simp] theorem State.setEdge_disp (e : Option Nibble) : (s.setEdge e).disp = s.disp := rfl
@[simp] theorem State.setEdge_key (e : Option Nibble) : (s.setEdge e).key = s.key := rfl
@[simp] theorem State.setEdge_mode (e : Option Nibble) : (s.setEdge e).mode = s.mode := rfl
@[simp] theorem State.setEdge_edge (e : Option Nibble) : (s.setEdge e).edge = e := rfl
@[simp] theorem State.setEdge_cfg (e : Option Nibble) : (s.setEdge e).cfg = s.cfg := rfl
@[simp] theorem State.setEdge_draws (e : Option Nibble) : (s.setEdge e).draws = s.draws := rfl
@[simp] theorem State.setEdge_reg (e : Option Nibble) (z : Nibble) : (s.setEdge e).reg z = s.reg z := rfl
@[simp] theorem State.setEdge_readByte (e : Option Nibble) (z : Nat) : (s.setEdge e).readByte z = s.readByte z := rfl
@[simp] theorem State.setEdge_addr (e : Option Nibble) (z : Nat) : (s.setEdge e).addr z = s.addr z := rfl
@[simp] theorem State.setEdge_keyDown (e : Option Nibble) (z : Nibble) : (s.setEdge e).keyDown z = s.keyDown z := rfl

/-! ### `setDraws` -/

@[simp] theorem State.setDraws_mem (k : Nat) : (s.setDraws k).mem = s.mem := rfl
@[simp] theorem State.setDraws_v (k : Nat) : (s.setDraws k).v = s.v := rfl
@[simp] theorem State.setDraws_i (k : Nat) : (s.setDraws k).i = s.i := rfl
@[simp] theorem State.setDraws_pc (k : Nat) : (s.setDraws k).pc = s.pc := rfl
@[simp] theorem State.setDraws_sp (k : Nat) : (s.setDraws k).sp = s.sp := rfl
@[simp] theorem State.setDraws_stack (k : Nat) : (s.setDraws k).stack = s.stack := rfl
@[simp] theorem State.setDraws_dt (k : Nat) : (s.setDraws k).dt = s.dt := rfl
@[simp] theorem State.setDraws_st (k : Nat) : (s.setDraws k).st = s.st := rfl
@[simp] theorem State.setDraws_disp (k : Nat) : (s.setDraws k).disp = s.disp := rfl
@[simp] theorem State.setDraws_key (k : Nat) : (s.setDraws k).key = s.key := rfl
@[simp] theorem State.setDraws_mode (k : Nat) : (s.setDraws k).mode = s.mode := rfl
@[simp] theorem State.setDraws_edge (k : Nat) : (s.setDraws k).edge = s.edge := rfl
@[simp] theorem State.setDraws_cfg (k : Nat) : (s.setDraws k).cfg = s.cfg := rfl
@[simp] theorem State.setDraws_draws (k : Nat) : (s.setDraws k).draws = k := rfl
@[simp] theorem State.setDraws_reg (k : Nat) (z : Nibble) : (s.setDraws k).reg z = s.reg z := rfl
@[simp] theorem State.setDraws_readByte (k : Nat) (z : Nat) : (s.setDraws k).readByte z = s.readByte z := rfl
@[simp] theorem State.setDraws_addr (k : Nat) (z : Nat) : (s.setDraws k).addr z = s.addr z := rfl
@[simp] theorem State.setDraws_keyDown (k : Nat) (z : Nibble) : (s.setDraws k).keyDown z = s.keyDown z := rfl

/-! ### `setFlag` -/

@[simp] theorem State.setFlag_mem (f : Byte) : (s.setFlag f).mem = s.mem := rfl
@[simp] theorem State.setFlag_i (f : Byte) : (s.setFlag f).i = s.i := rfl
@[simp] theorem State.setFlag_pc (f : Byte) : (s.setFlag f).pc = s.pc := rfl
@[simp] theorem State.setFlag_sp (f : Byte) : (s.setFlag f).sp = s.sp := rfl
@[simp] theorem State.setFlag_stack (f : Byte) : (s.setFlag f).stack = s.stack := rfl
@[simp] theorem State.setFlag_dt (f : Byte) : (s.setFlag f).dt = s.dt := rfl
@[simp] theorem State.setFlag_st (f : Byte) : (s.setFlag f).st = s.st := rfl
@[simp] theorem State.setFlag_disp (f : Byte) : (s.setFlag f).disp = s.disp := rfl
@[simp] theorem State.setFlag_key (f : Byte) : (s.setFlag f).key = s.key := rfl
@[simp] theorem State.setFlag_mode (f : Byte) : (s.setFlag f).mode = s.mode := rfl
@[simp] theorem State.setFlag_edge (f : Byte) : (s.setFlag f).edge = s.edge := rfl
@[simp] theorem State.setFlag_cfg (f : Byte) : (s.setFlag f).cfg = s.cfg := rfl
@[simp] theorem State.setFlag_draws (f : Byte) : (s.setFlag f).draws = s.draws := rfl
@[simp] theorem State.setFlag_readByte (f : Byte) (z : Nat) : (s.setFlag f).readByte z = s.readByte z := rfl
@[simp] theorem State.setFlag_addr (f : Byte) (z : Nat) : (s.setFlag f).addr z = s.addr z := rfl
@[simp] theorem State.setFlag_keyDown (f : Byte) (z : Nibble) : (s.setFlag f).keyDown z = s.keyDown z := rfl

/-! ### `advance` -/

@[simp] theorem State.advance_mem : s.advance.mem = s.mem := rfl
@[simp] theorem State.advance_v : s.advance.v = s.v := rfl
@[simp] theorem State.advance_i : s.advance.i = s.i := rfl
@[simp] theorem State.advance_pc : s.advance.pc = low12 (s.pc.toNat + 2) := rfl
@[simp] theorem State.advance_sp : s.advance.sp = s.sp := rfl
@[simp] theorem State.advance_stack : s.advance.stack = s.stack := rfl
@[simp] theorem State.advance_dt : s.advance.dt = s.dt := rfl
@[simp] theorem State.advance_st : s.advance.st = s.st := rfl
@[simp] theorem State.advance_disp : s.advance.disp = s.disp := rfl
@[simp] theorem State.advance_key : s.advance.key = s.key := rfl
@[simp] theorem State.advance_mode : s.advance.mode = s.mode := rfl
@[simp] theorem State.advance_edge : s.advance.edge = s.edge := rfl
@[simp] theorem State.advance_cfg : s.advance.cfg = s.cfg := rfl
@[simp] theorem State.advance_draws : s.advance.draws = s.draws := rfl
@[simp] theorem State.advance_reg (z : Nibble) : s.advance.reg z = s.reg z := rfl
@[simp] theorem State.advance_readByte (z : Nat) : s.advance.readByte z = s.readByte z := rfl
@[simp] theorem State.advance_addr (z : Nat) : s.advance.addr z = s.addr z := rfl
@[simp] theorem State.advance_keyDown (z : Nibble) : s.advance.keyDown z = s.keyDown z := rfl

/-! ### `skipIf` -/

@[simp] theorem State.skipIf_mem (c : Bool) : (s.skipIf c).mem = s.mem := rfl
@[simp] theorem State.skipIf_v (c : Bool) : (s.skipIf c).v = s.v := rfl
@[simp] theorem State.skipIf_i (c : Bool) : (s.skipIf c).i = s.i := rfl
@[simp] theorem State.skipIf_pc (c : Bool) : (s.skipIf c).pc = low12 (s.pc.toNat + if c then 4 else 2) := rfl
@[simp] theorem State.skipIf_sp (c : Bool) : (s.skipIf c).sp = s.sp := rfl
@[simp] theorem State.skipIf_stack (c : Bool) : (s.skipIf c).stack = s.stack := rfl
@[simp] theorem State.skipIf_dt (c : Bool) : (s.skipIf c).dt = s.dt := rfl
@[simp] theorem State.skipIf_st (c : Bool) : (s.skipIf c).st = s.st := rfl
@[simp] theorem State.skipIf_disp (c : Bool) : (s.skipIf c).disp = s.disp := rfl
@[simp] theorem State.skipIf_key (c : Bool) : (s.skipIf c).key = s.key := rfl
@[simp] theorem State.skipIf_mode (c : Bool) : (s.skipIf c).mode = s.mode := rfl
@[simp] theorem State.skipIf_edge (c : Bool) : (s.skipIf c).edge = s.edge := rfl
@[simp] theorem State.skipIf_cfg (c : Bool) : (s.skipIf c).cfg = s.cfg := rfl
@[simp] theorem State.skipIf_draws (c : Bool) : (s.skipIf c).draws = s.draws := rfl
@[simp] theorem State.skipIf_reg (c : Bool) (z : Nibble) : (s.skipIf c).reg z = s.reg z := rfl
@[simp] theorem State.skipIf_readByte (c : Bool) (z : Nat) : (s.skipIf c).readByte z = s.readByte z := rfl
@[simp] theorem State.skipIf_addr (c : Bool) (z : Nat) : (s.skipIf c).addr z = s.addr z := rfl
@[simp] theorem State.skipIf_keyDown (c : Bool) (z : Nibble) : (s.skipIf c).keyDown z = s.keyDown z := rfl

/-! ### `raiseHalt` -/

@[simp] theorem State.raiseHalt_mem (r : HaltReason) (w : Option Word) : (s.raiseHalt r w).mem = s.mem := rfl
@[simp] theorem State.raiseHalt_v (r : HaltReason) (w : Option Word) : (s.raiseHalt r w).v = s.v := rfl
@[simp] theorem State.raiseHalt_i (r : HaltReason) (w : Option Word) : (s.raiseHalt r w).i = s.i := rfl
@[simp] theorem State.raiseHalt_pc (r : HaltReason) (w : Option Word) : (s.raiseHalt r w).pc = s.pc := rfl
@[simp] theorem State.raiseHalt_sp (r : HaltReason) (w : Option Word) : (s.raiseHalt r w).sp = s.sp := rfl
@[simp] theorem State.raiseHalt_stack (r : HaltReason) (w : Option Word) : (s.raiseHalt r w).stack = s.stack := rfl
@[simp] theorem State.raiseHalt_dt (r : HaltReason) (w : Option Word) : (s.raiseHalt r w).dt = s.dt := rfl
@[simp] theorem State.raiseHalt_st (r : HaltReason) (w : Option Word) : (s.raiseHalt r w).st = s.st := rfl
@[simp] theorem State.raiseHalt_disp (r : HaltReason) (w : Option Word) : (s.raiseHalt r w).disp = s.disp := rfl
@[simp] theorem State.raiseHalt_key (r : HaltReason) (w : Option Word) : (s.raiseHalt r w).key = s.key := rfl
@[simp] theorem State.raiseHalt_mode (r : HaltReason) (w : Option Word) : (s.raiseHalt r w).mode = .halted r w s.pc := rfl
@[simp] theorem State.raiseHalt_edge (r : HaltReason) (w : Option Word) : (s.raiseHalt r w).edge = s.edge := rfl
@[simp] theorem State.raiseHalt_cfg (r : HaltReason) (w : Option Word) : (s.raiseHalt r w).cfg = s.cfg := rfl
@[simp] theorem State.raiseHalt_draws (r : HaltReason) (w : Option Word) : (s.raiseHalt r w).draws = s.draws := rfl
@[simp] theorem State.raiseHalt_reg (r : HaltReason) (w : Option Word) (z : Nibble) : (s.raiseHalt r w).reg z = s.reg z := rfl
@[simp] theorem State.raiseHalt_readByte (r : HaltReason) (w : Option Word) (z : Nat) : (s.raiseHalt r w).readByte z = s.readByte z := rfl
@[simp] theorem State.raiseHalt_addr (r : HaltReason) (w : Option Word) (z : Nat) : (s.raiseHalt r w).addr z = s.addr z := rfl
@[simp] theorem State.raiseHalt_keyDown (r : HaltReason) (w : Option Word) (z : Nibble) : (s.raiseHalt r w).keyDown z = s.keyDown z := rfl

end Sys2Proof.Machine
end

