-- ==== Sys2Proof/Laws/Memory.lean ====
section
/-! SUPPORT. Memory as a map (20_memory.md R58): what a read gives after a write, that every memory operation keeps the
canonical form, and that two canonical memories that read alike are equal. -/

namespace Sys2Proof.Machine

/-- An address below every listed one reads as unlisted. -/
theorem Memory.read_of_lt (font : Font) (m : Memory) (a : Nat) (h : ∀ c ∈ m, a < c.1) :
    Memory.read font m a = unlistedByte font a := by
  induction m with
  | nil => rfl
  | cons c m ih =>
    have hc : a < c.1 := h c (by simp)
    simp only [Memory.read, show ¬ a = c.1 by omega, if_false]
    exact ih fun d hd => h d (by simp [hd])

/-- R58: a read after a write, in rising memory. -/
theorem Memory.read_write (font : Font) (m : Memory) (hm : m.Pairwise fun p q => p.1 < q.1) (a b : Nat) (y : Byte) :
    Memory.read font (Memory.write font m a y) b = if b = a then y else Memory.read font m b := by
  induction m with
  | nil => grind [Memory.write, Memory.read]
  | cons c m ih =>
    obtain ⟨c1, c2⟩ := c
    rw [List.pairwise_cons] at hm
    have hlow := Memory.read_of_lt font m
    have ih := ih hm.2
    have hb : ∀ b, b ≤ c1 → Memory.read font m b = unlistedByte font b := fun b hb =>
      hlow b fun d hd => by have := hm.1 d hd; simp only at this; omega
    unfold Memory.write
    grind [Memory.read]

/-- The addresses that memory lists after a write were listed before, or are the address written. -/
theorem Memory.mem_write (font : Font) (m : Memory) (a : Nat) (y : Byte) (c : Host.Cell)
    (h : c ∈ Memory.write font m a y) : c ∈ m ∨ (c = (a, y) ∧ y ≠ unlistedByte font a) := by
  induction m with
  | nil => grind [Memory.write]
  | cons d m ih => grind [Memory.write]

/-- A write in the address space keeps the canonical form. -/
theorem Memory.wf_write (font : Font) (m : Memory) (a : Nat) (y : Byte) (hm : Memory.wf font m) (ha : a < memSize) :
    Memory.wf font (Memory.write font m a y) := by
  obtain ⟨hs, hc⟩ := hm
  refine ⟨?_, ?_⟩
  · induction m with
    | nil => grind [Memory.write]
    | cons d m ih =>
      have hmem := Memory.mem_write font m a y
      rw [List.pairwise_cons] at hs
      have ih := ih hs.2 fun c h => hc c (by simp [h])
      unfold Memory.write
      split
      · split
        · exact List.pairwise_cons.2 hs
        · refine List.pairwise_cons.2 ⟨?_, List.pairwise_cons.2 hs⟩
          grind
      · split
        · split
          · exact hs.2
          · refine List.pairwise_cons.2 ⟨?_, hs.2⟩
            grind
        · refine List.pairwise_cons.2 ⟨?_, ih⟩
          intro c h
          rcases hmem c h with h | ⟨rfl, -⟩
          · exact hs.1 c h
          · grind
  · intro c h
    rcases Memory.mem_write font m a y c h with h | ⟨rfl, hy⟩
    · exact hc c h
    · exact ⟨ha, hy⟩

/-- Two canonical memories that read alike everywhere are the same list. -/
theorem Memory.ext_of_wf (font : Font) (m m' : Memory) (hm : Memory.wf font m) (hm' : Memory.wf font m')
    (h : ∀ a, Memory.read font m a = Memory.read font m' a) : m = m' := by
  induction m generalizing m' with
  | nil =>
    cases m' with
    | nil => rfl
    | cons c m' =>
      have := h c.1
      simp only [Memory.read, if_true] at this
      exact absurd this.symm (hm'.2 c (by simp)).2
  | cons c m ih =>
    cases m' with
    | nil =>
      have := h c.1
      simp only [Memory.read, if_true] at this
      exact absurd this (hm.2 c (by simp)).2
    | cons c' m' =>
      have hs := List.pairwise_cons.1 hm.1
      have hs' := List.pairwise_cons.1 hm'.1
      have hlt : ¬ c.1 < c'.1 := fun hl => by
        have := h c.1
        rw [Memory.read_of_lt font (c' :: m') c.1 (by grind)] at this
        simp only [Memory.read, if_true] at this
        exact (hm.2 c (by simp)).2 this
      have hlt' : ¬ c'.1 < c.1 := fun hl => by
        have := h c'.1
        rw [Memory.read_of_lt font (c :: m) c'.1 (by grind)] at this
        simp only [Memory.read, if_true] at this
        exact (hm'.2 c' (by simp)).2 this.symm
      have h1 : c.1 = c'.1 := by omega
      have h2 : c.2 = c'.2 := by
        have := h c.1
        simpa [Memory.read, h1] using this
      have hcc : c = c' := Prod.ext h1 h2
      subst hcc
      have htail : m = m' := by
        refine ih m' ⟨hs.2, fun d hd => hm.2 d (by simp [hd])⟩ ⟨hs'.2, fun d hd => hm'.2 d (by simp [hd])⟩ ?_
        intro a
        by_cases ha : a ≤ c.1
        · rw [Memory.read_of_lt font m a (by grind), Memory.read_of_lt font m' a (by grind)]
        · have := h a
          simpa [Memory.read, show ¬ a = c.1 by omega] using this
      rw [htail]

/-! ### The state's memory operations -/

/-- R58: a read after one write. -/
theorem State.readByte_writeByte (s : State) (hm : Memory.wf s.cfg.font s.mem) (a b : Nat) (y : Byte) :
    (s.writeByte a y).readByte b = if b = a then y else s.readByte b :=
  Memory.read_write s.cfg.font s.mem hm.1 a b y

/-- One write keeps the canonical form. -/
theorem State.writeByte_wf (s : State) (hm : Memory.wf s.cfg.font s.mem) (a : Nat) (ha : a < memSize) (y : Byte) :
    Memory.wf (s.writeByte a y).cfg.font (s.writeByte a y).mem :=
  Memory.wf_write s.cfg.font s.mem a y hm ha

/-- Everything `writeCells` can do but to memory: nothing. -/
theorem State.writeCells_eq (s : State) (ws : List (Nat × Byte)) :
    s.writeCells ws = { s with mem := (s.writeCells ws).mem } := by
  induction ws generalizing s with
  | nil => rfl
  | cons c ws ih =>
    have := ih (s.writeByte c.1 c.2)
    simpa [State.writeCells, State.writeByte] using this

/-! The fields of `writeCells`, one by one. -/

@[simp] theorem State.writeCells_v (s : State) (ws : List (Nat × Byte)) : (s.writeCells ws).v = s.v := by
  rw [State.writeCells_eq]
@[simp] theorem State.writeCells_i (s : State) (ws : List (Nat × Byte)) : (s.writeCells ws).i = s.i := by
  rw [State.writeCells_eq]
@[simp] theorem State.writeCells_pc (s : State) (ws : List (Nat × Byte)) : (s.writeCells ws).pc = s.pc := by
  rw [State.writeCells_eq]
@[simp] theorem State.writeCells_sp (s : State) (ws : List (Nat × Byte)) : (s.writeCells ws).sp = s.sp := by
  rw [State.writeCells_eq]
@[simp] theorem State.writeCells_stack (s : State) (ws : List (Nat × Byte)) : (s.writeCells ws).stack = s.stack := by
  rw [State.writeCells_eq]
@[simp] theorem State.writeCells_dt (s : State) (ws : List (Nat × Byte)) : (s.writeCells ws).dt = s.dt := by
  rw [State.writeCells_eq]
@[simp] theorem State.writeCells_st (s : State) (ws : List (Nat × Byte)) : (s.writeCells ws).st = s.st := by
  rw [State.writeCells_eq]
@[simp] theorem State.writeCells_disp (s : State) (ws : List (Nat × Byte)) : (s.writeCells ws).disp = s.disp := by
  rw [State.writeCells_eq]
@[simp] theorem State.writeCells_key (s : State) (ws : List (Nat × Byte)) : (s.writeCells ws).key = s.key := by
  rw [State.writeCells_eq]
@[simp] theorem State.writeCells_mode (s : State) (ws : List (Nat × Byte)) : (s.writeCells ws).mode = s.mode := by
  rw [State.writeCells_eq]
@[simp] theorem State.writeCells_edge (s : State) (ws : List (Nat × Byte)) : (s.writeCells ws).edge = s.edge := by
  rw [State.writeCells_eq]
@[simp] theorem State.writeCells_cfg (s : State) (ws : List (Nat × Byte)) : (s.writeCells ws).cfg = s.cfg := by
  rw [State.writeCells_eq]
@[simp] theorem State.writeCells_draws (s : State) (ws : List (Nat × Byte)) : (s.writeCells ws).draws = s.draws := by
  rw [State.writeCells_eq]
@[simp] theorem State.writeCells_reg (s : State) (ws : List (Nat × Byte)) (z : Nibble) :
    (s.writeCells ws).reg z = s.reg z := by
  simp only [State.reg, State.writeCells_v]

/-- `writeCells` in the address space keeps the canonical form. -/
theorem State.writeCells_wf (s : State) (ws : List (Nat × Byte)) (hm : Memory.wf s.cfg.font s.mem)
    (hws : ∀ c ∈ ws, c.1 < memSize) : Memory.wf s.cfg.font (s.writeCells ws).mem := by
  induction ws generalizing s with
  | nil => exact hm
  | cons c ws ih =>
    have := ih (s.writeByte c.1 c.2) (s.writeByte_wf hm c.1 (hws c (by simp)) c.2) fun d hd => hws d (by simp [hd])
    simpa [State.writeCells] using this

/-- `writeCells` leaves the bytes it does not name. -/
theorem State.readByte_writeCells_of_not_mem (s : State) (ws : List (Nat × Byte)) (hm : Memory.wf s.cfg.font s.mem)
    (hws : ∀ c ∈ ws, c.1 < memSize) (b : Nat) (hb : ∀ c ∈ ws, c.1 ≠ b) :
    (s.writeCells ws).readByte b = s.readByte b := by
  induction ws generalizing s with
  | nil => rfl
  | cons c ws ih =>
    have hc : ¬ b = c.1 := fun h => hb c (by simp) h.symm
    have := ih (s.writeByte c.1 c.2) (s.writeByte_wf hm c.1 (hws c (by simp)) c.2)
      (fun d hd => hws d (by simp [hd])) fun d hd => hb d (by simp [hd])
    rw [State.readByte_writeByte s hm] at this
    simpa [State.writeCells, hc] using this

/-- `writeCells` to distinct addresses stores each byte. -/
theorem State.readByte_writeCells_of_mem (s : State) (ws : List (Nat × Byte)) (hm : Memory.wf s.cfg.font s.mem)
    (hws : ∀ c ∈ ws, c.1 < memSize) (hd : (ws.map Prod.fst).Nodup) (c : Nat × Byte) (hc : c ∈ ws) :
    (s.writeCells ws).readByte c.1 = c.2 := by
  induction ws generalizing s with
  | nil => simp at hc
  | cons d ws ih =>
    have hwf := s.writeByte_wf hm d.1 (hws d (by simp)) d.2
    have hws' : ∀ e ∈ ws, e.1 < memSize := fun e he => hws e (by simp [he])
    simp only [List.map_cons, List.nodup_cons] at hd
    rcases List.mem_cons.1 hc with rfl | hc
    · have hn : ∀ e ∈ ws, e.1 ≠ c.1 := fun e he h => hd.1 (h ▸ List.mem_map_of_mem he)
      have := State.readByte_writeCells_of_not_mem _ ws hwf hws' c.1 hn
      rw [State.readByte_writeByte s hm] at this
      simpa [State.writeCells] using this
    · exact ih _ hwf hws' hd.2 hc

/-- `writeBytesAt` is `writeCells` at rising addresses. -/
theorem State.writeBytesAt_eq_writeCells (s : State) (a : Nat) (ys : List Byte) :
    s.writeBytesAt a ys = s.writeCells ((List.range' a ys.length).zip ys) := by
  induction ys generalizing s a with
  | nil => rfl
  | cons y ys ih => simpa [State.writeBytesAt, State.writeCells, List.range'_succ] using ih (s.writeByte a y) (a + 1)

/-- Everything `writeBytesAt` can do but to memory: nothing. -/
theorem State.writeBytesAt_eq (s : State) (a : Nat) (ys : List Byte) :
    s.writeBytesAt a ys = { s with mem := (s.writeBytesAt a ys).mem } := by
  rw [State.writeBytesAt_eq_writeCells]; exact s.writeCells_eq _

/-! The fields of `writeBytesAt`, one by one. -/

@[simp] theorem State.writeBytesAt_v (s : State) (a : Nat) (ys : List Byte) : (s.writeBytesAt a ys).v = s.v := by
  rw [State.writeBytesAt_eq]
@[simp] theorem State.writeBytesAt_i (s : State) (a : Nat) (ys : List Byte) : (s.writeBytesAt a ys).i = s.i := by
  rw [State.writeBytesAt_eq]
@[simp] theorem State.writeBytesAt_pc (s : State) (a : Nat) (ys : List Byte) : (s.writeBytesAt a ys).pc = s.pc := by
  rw [State.writeBytesAt_eq]
@[simp] theorem State.writeBytesAt_sp (s : State) (a : Nat) (ys : List Byte) : (s.writeBytesAt a ys).sp = s.sp := by
  rw [State.writeBytesAt_eq]
@[simp] theorem State.writeBytesAt_stack (s : State) (a : Nat) (ys : List Byte) : (s.writeBytesAt a ys).stack = s.stack := by
  rw [State.writeBytesAt_eq]
@[simp] theorem State.writeBytesAt_dt (s : State) (a : Nat) (ys : List Byte) : (s.writeBytesAt a ys).dt = s.dt := by
  rw [State.writeBytesAt_eq]
@[simp] theorem State.writeBytesAt_st (s : State) (a : Nat) (ys : List Byte) : (s.writeBytesAt a ys).st = s.st := by
  rw [State.writeBytesAt_eq]
@[simp] theorem State.writeBytesAt_disp (s : State) (a : Nat) (ys : List Byte) : (s.writeBytesAt a ys).disp = s.disp := by
  rw [State.writeBytesAt_eq]
@[simp] theorem State.writeBytesAt_key (s : State) (a : Nat) (ys : List Byte) : (s.writeBytesAt a ys).key = s.key := by
  rw [State.writeBytesAt_eq]
@[simp] theorem State.writeBytesAt_mode (s : State) (a : Nat) (ys : List Byte) : (s.writeBytesAt a ys).mode = s.mode := by
  rw [State.writeBytesAt_eq]
@[simp] theorem State.writeBytesAt_edge (s : State) (a : Nat) (ys : List Byte) : (s.writeBytesAt a ys).edge = s.edge := by
  rw [State.writeBytesAt_eq]
@[simp] theorem State.writeBytesAt_cfg (s : State) (a : Nat) (ys : List Byte) : (s.writeBytesAt a ys).cfg = s.cfg := by
  rw [State.writeBytesAt_eq]
@[simp] theorem State.writeBytesAt_draws (s : State) (a : Nat) (ys : List Byte) : (s.writeBytesAt a ys).draws = s.draws := by
  rw [State.writeBytesAt_eq]

/-- `writeBytesAt` in the address space keeps the canonical form. -/
theorem State.writeBytesAt_wf (s : State) (a : Nat) (ys : List Byte) (hm : Memory.wf s.cfg.font s.mem)
    (ha : a + ys.length ≤ memSize) : Memory.wf s.cfg.font (s.writeBytesAt a ys).mem := by
  rw [State.writeBytesAt_eq_writeCells]
  refine s.writeCells_wf _ hm fun c hc => ?_
  have := (List.of_mem_zip (show (c.1, c.2) ∈ _ from hc)).1
  rw [List.mem_range'_1] at this
  omega

/-- What a byte reads as after `writeBytesAt`. -/
theorem State.readByte_writeBytesAt (s : State) (a : Nat) (ys : List Byte) (hm : Memory.wf s.cfg.font s.mem)
    (ha : a + ys.length ≤ memSize) (b : Nat) :
    (s.writeBytesAt a ys).readByte b =
      if h : a ≤ b ∧ b < a + ys.length then ys[b - a]'(by omega) else s.readByte b := by
  induction ys generalizing s a with
  | nil => simp [State.writeBytesAt]
  | cons y ys ih =>
    simp only [List.length_cons] at ha
    have := ih (s.writeByte a y) (a + 1) (s.writeByte_wf hm a (by omega) y) (by omega)
    rw [State.readByte_writeByte s hm] at this
    rw [State.writeBytesAt, this]
    by_cases hb : b = a
    · subst hb; simp
    · by_cases h : a + 1 ≤ b ∧ b < a + 1 + ys.length
      · have h' : a ≤ b ∧ b < a + (ys.length + 1) := by omega
        have hi : b - a = (b - (a + 1)) + 1 := by omega
        simp [h, h', hi]
      · have h' : ¬ (a ≤ b ∧ b < a + (ys.length + 1)) := by omega
        simp only [h, h', hb, dif_neg, if_false, List.length_cons, not_false_eq_true]

end Sys2Proof.Machine
end

