-- ==== Sys2Proof/Laws/Ops.lean ====
section
/-! SUPPORT. One lemma per shared operation of Machine/Ops.lean, Operands.lean and Flags.lean, saying what it can do. -/

namespace Sys2Proof.Machine

/-! ### Words -/

/-- R22, R24: a write to PC or I holds `a mod 0x1000`. -/
@[simp] theorem low12_toNat (a : Nat) : (low12 a).toNat = a % 0x1000 := by
  simp only [low12, BitVec.toNat_ofNat]
  omega

/-- A 12-bit value that is reduced again is itself. -/
theorem low12_toNat_of_le (w : Word) (h : w.toNat ≤ 0xFFF) : low12 w.toNat = w := by
  apply BitVec.eq_of_toNat_eq
  rw [low12_toNat]
  omega

/-! ### Registers -/

/-- R20: `V[z]` after `V[x] <- y`. -/
theorem State.reg_setReg (s : State) (x z : Nibble) (y : Byte) :
    (s.setReg x y).reg z = if z = x then y else s.reg z := by
  have h : x.toNat = z.toNat ↔ z = x := ⟨fun h => (BitVec.eq_of_toNat_eq h).symm, fun h => by rw [h]⟩
  simp only [State.reg, State.setReg, Vector.getElem_set, h]

/-- R20: the register just written. -/
@[simp] theorem State.reg_setReg_self (s : State) (x : Nibble) (y : Byte) : (s.setReg x y).reg x = y := by
  simp [State.reg_setReg]

/-- R9, D7: `V[z]` after the flag is written. -/
theorem State.reg_setFlag (s : State) (z : Nibble) (f : Byte) :
    (s.setFlag f).reg z = if z = vf then f else s.reg z := State.reg_setReg s vf z f

/-- R20: two register files that read alike are equal. -/
theorem State.v_ext (s t : State) (h : ∀ x, t.reg x = s.reg x) : t.v = s.v := by
  refine Vector.ext fun k hk => ?_
  have := h (BitVec.ofNat 4 k)
  have hk' : k % 16 = k := by omega
  simpa [State.reg, BitVec.toNat_ofNat, hk'] using this

/-- R241: `key[z]` after `key[k] <- b`. -/
theorem State.keyDown_setKeyLevel (s : State) (k z : Nibble) (b : Bool) :
    (s.setKeyLevel k b).keyDown z = if z = k then b else s.keyDown z := by
  have h : k.toNat = z.toNat ↔ z = k := ⟨fun h => (BitVec.eq_of_toNat_eq h).symm, fun h => by rw [h]⟩
  simp only [State.keyDown, State.setKeyLevel, Vector.getElem_set, h]

/-! ### The call stack -/

/-- R112: `push` succeeds exactly when SP < 16. -/
theorem State.push_cases (s : State) (ret : Word) :
    (s.push ret = none ∧ s.sp.val = 16) ∨
      ∃ h : s.sp.val < 16, s.push ret =
        some ((s.setStackEntry ⟨s.sp.val, h⟩ ret).setSp ⟨s.sp.val + 1, by omega⟩) := by
  by_cases h : s.sp.val < 16
  · exact .inr ⟨h, by simp [State.push, h]⟩
  · exact .inl ⟨by simp [State.push, h], by omega⟩

/-- R110: `pop` succeeds exactly when SP > 0. -/
theorem State.pop_cases (s : State) :
    (s.pop = none ∧ s.sp.val = 0) ∨
      ∃ _ : 0 < s.sp.val, s.pop =
        some (s.stack[s.sp.val - 1]'(by omega), s.setSp ⟨s.sp.val - 1, by omega⟩) := by
  by_cases h : s.sp.val = 0
  · exact .inl ⟨by simp [State.pop, h], h⟩
  · exact .inr ⟨by omega, by simp [State.pop, h]⟩

/-! ### Addresses -/

/-- R51: `addr` gives `a mod 0x1000` when it wraps or `a` is in the address space, and halts otherwise. -/
theorem State.addr_eq (s : State) (a : Nat) :
    s.addr a = if s.cfg.addrOverflow = .wrap ∨ a < 0x1000 then some (a % 0x1000) else none := by
  unfold State.addr memSize
  cases s.cfg.addrOverflow
  · simp
  · by_cases h : a < 0x1000
    · simp [h, Nat.mod_eq_of_lt h]
    · simp [h]

/-- R51: the addresses of a range, or a halt when one of them is out of the address space. -/
theorem State.addrRange_eq (s : State) (base n : Nat) :
    s.addrRange base n =
      if s.cfg.addrOverflow = .wrap ∨ n = 0 ∨ base + n ≤ 0x1000 then
        some ((List.range' base n).map (· % 0x1000)) else none := by
  induction n generalizing base with
  | zero => simp [State.addrRange]
  | succ n ih =>
    rw [State.addrRange, State.addr_eq, ih]
    by_cases hw : s.cfg.addrOverflow = .wrap
    · simp [hw, List.range'_succ]
    · by_cases h : base + (n + 1) ≤ 0x1000
      · have h1 : base < 0x1000 := by omega
        have h2 : n = 0 ∨ base + 1 + n ≤ 0x1000 := by omega
        simp [hw, h, h1, h2, List.range'_succ]
      · by_cases h1 : base < 0x1000
        · have h2 : ¬ (n = 0 ∨ base + 1 + n ≤ 0x1000) := by omega
          simp [hw, h, h1, h2]
        · simp [hw, h, h1]

/-- R166: the `n` addresses from I on, as `indexAddr` gives them. -/
theorem State.indexed_of_inRange (s : State) (n : Nat) (h : IndexInRange s n) :
    s.indexed n = some ((List.range n).map (indexAddr s)) := by
  rw [State.indexed, State.addrRange_eq, if_pos h, List.range'_eq_map_range, List.map_map]
  rfl

/-- R51: the range halts when it is not in range. -/
theorem State.indexed_of_not_inRange (s : State) (n : Nat) (h : ¬ IndexInRange s n) : s.indexed n = none := by
  rw [State.indexed, State.addrRange_eq, if_neg h]

/-- R51: every address an instruction forms is in the address space. -/
theorem State.indexed_lt (s : State) (n : Nat) (as : List Nat) (h : s.indexed n = some as) : ∀ a ∈ as, a < memSize := by
  rw [State.indexed, State.addrRange_eq] at h
  split at h
  · cases h
    intro a ha
    obtain ⟨b, -, rfl⟩ := List.mem_map.1 ha
    exact Nat.mod_lt _ (by decide)
  · cases h

/-- R51: up to 4096 addresses from I on are distinct. -/
theorem indexAddr_nodup (s : State) (n : Nat) (h : n ≤ 0x1000) : ((List.range n).map (indexAddr s)).Nodup := by
  refine List.Nodup.map_on ?_ List.nodup_range
  intro a ha b hb hab
  simp only [List.mem_range] at ha hb
  unfold indexAddr at hab
  omega

/-! ### Register ranges -/

/-- R164: the x + 1 values of V0..Vx. -/
@[simp] theorem State.regRange_length (s : State) (x : Nibble) : (s.regRange x).length = x.toNat + 1 := by
  simp [State.regRange]

/-- Everything `loadRegs` can do but to the registers: nothing. -/
theorem State.loadRegs_eq (s : State) (k : Nat) (ys : List Byte) :
    s.loadRegs k ys = { s with v := (s.loadRegs k ys).v } := by
  induction ys generalizing s k with
  | nil => rfl
  | cons y ys ih =>
    have := ih (s.setReg (BitVec.ofNat 4 k) y) (k + 1)
    simpa [State.loadRegs, State.setReg] using this

/-! The fields of `loadRegs`, one by one. -/

@[simp] theorem State.loadRegs_mem (s : State) (k : Nat) (ys : List Byte) : (s.loadRegs k ys).mem = s.mem := by
  rw [State.loadRegs_eq]
@[simp] theorem State.loadRegs_i (s : State) (k : Nat) (ys : List Byte) : (s.loadRegs k ys).i = s.i := by
  rw [State.loadRegs_eq]
@[simp] theorem State.loadRegs_pc (s : State) (k : Nat) (ys : List Byte) : (s.loadRegs k ys).pc = s.pc := by
  rw [State.loadRegs_eq]
@[simp] theorem State.loadRegs_sp (s : State) (k : Nat) (ys : List Byte) : (s.loadRegs k ys).sp = s.sp := by
  rw [State.loadRegs_eq]
@[simp] theorem State.loadRegs_stack (s : State) (k : Nat) (ys : List Byte) : (s.loadRegs k ys).stack = s.stack := by
  rw [State.loadRegs_eq]
@[simp] theorem State.loadRegs_dt (s : State) (k : Nat) (ys : List Byte) : (s.loadRegs k ys).dt = s.dt := by
  rw [State.loadRegs_eq]
@[simp] theorem State.loadRegs_st (s : State) (k : Nat) (ys : List Byte) : (s.loadRegs k ys).st = s.st := by
  rw [State.loadRegs_eq]
@[simp] theorem State.loadRegs_disp (s : State) (k : Nat) (ys : List Byte) : (s.loadRegs k ys).disp = s.disp := by
  rw [State.loadRegs_eq]
@[simp] theorem State.loadRegs_key (s : State) (k : Nat) (ys : List Byte) : (s.loadRegs k ys).key = s.key := by
  rw [State.loadRegs_eq]
@[simp] theorem State.loadRegs_mode (s : State) (k : Nat) (ys : List Byte) : (s.loadRegs k ys).mode = s.mode := by
  rw [State.loadRegs_eq]
@[simp] theorem State.loadRegs_edge (s : State) (k : Nat) (ys : List Byte) : (s.loadRegs k ys).edge = s.edge := by
  rw [State.loadRegs_eq]
@[simp] theorem State.loadRegs_cfg (s : State) (k : Nat) (ys : List Byte) : (s.loadRegs k ys).cfg = s.cfg := by
  rw [State.loadRegs_eq]
@[simp] theorem State.loadRegs_draws (s : State) (k : Nat) (ys : List Byte) : (s.loadRegs k ys).draws = s.draws := by
  rw [State.loadRegs_eq]
@[simp] theorem State.loadRegs_readByte (s : State) (k : Nat) (ys : List Byte) (a : Nat) :
    (s.loadRegs k ys).readByte a = s.readByte a := by
  simp only [State.readByte, State.loadRegs_cfg, State.loadRegs_mem]

/-- R165: what each register holds after `loadRegs`. -/
theorem State.reg_loadRegs (s : State) (k : Nat) (ys : List Byte) (h : k + ys.length ≤ 16) (z : Nibble) :
    (s.loadRegs k ys).reg z =
      if h : k ≤ z.toNat ∧ z.toNat < k + ys.length then ys[z.toNat - k]'(by omega) else s.reg z := by
  induction ys generalizing s k with
  | nil =>
    have h' : ¬ (k ≤ z.toNat ∧ z.toNat < k) := by omega
    simp [State.loadRegs]
  | cons y ys ih =>
    simp only [List.length_cons] at h
    rw [State.loadRegs, ih _ (k + 1) (by omega), State.reg_setReg]
    have hk : z = BitVec.ofNat 4 k ↔ z.toNat = k := by
      refine ⟨fun h => ?_, fun h => ?_⟩
      · rw [h, BitVec.toNat_ofNat]; omega
      · apply BitVec.eq_of_toNat_eq; rw [BitVec.toNat_ofNat]; omega
    by_cases hz : z.toNat = k
    · have h1 : ¬ (k + 1 ≤ z.toNat ∧ z.toNat < k + 1 + ys.length) := by omega
      have h2 : k ≤ z.toNat ∧ z.toNat < k + (ys.length + 1) := by omega
      simp [hk, hz]
    · by_cases h1 : k + 1 ≤ z.toNat ∧ z.toNat < k + 1 + ys.length
      · have h2 : k ≤ z.toNat ∧ z.toNat < k + (ys.length + 1) := by omega
        have h3 : z.toNat - k = (z.toNat - (k + 1)) + 1 := by omega
        simp [h1, h2, h3]
      · have h2 : ¬ (k ≤ z.toNat ∧ z.toNat < k + (ys.length + 1)) := by omega
        simp only [h1, h2, hk, hz, dif_neg, if_false, List.length_cons, not_false_eq_true]

/-! ### The key index -/

/-- R200: `keyIndex` is the low nibble, or a halt above 0xF. -/
theorem State.keyIndex_eq (s : State) (v : Byte) :
    s.keyIndex v = if s.cfg.keyIndex = .lowNibble ∨ v.toNat ≤ 0xF then some (v.extractLsb' 0 4) else none := by
  unfold State.keyIndex
  cases s.cfg.keyIndex <;> simp

/-! ### Fetch -/

/-- R56, R57: the fetched word, or a halt. -/
theorem State.fetch_eq (s : State) :
    s.fetch =
      if s.cfg.addrOverflow = .wrap ∨ s.pc.toNat + 1 < 0x1000 then
        some (wordOfBytes (s.readByte (s.pc.toNat % 0x1000)) (s.readByte ((s.pc.toNat + 1) % 0x1000)))
      else none := by
  unfold State.fetch
  rw [State.addr_eq, State.addr_eq]
  by_cases hw : s.cfg.addrOverflow = .wrap
  · simp [hw]
  · by_cases h : s.pc.toNat + 1 < 0x1000
    · have h1 : s.pc.toNat < 0x1000 := by omega
      simp [hw, h, h1]
    · by_cases h1 : s.pc.toNat < 0x1000 <;> simp [hw, h, h1]

/-- The placed word is the one that is fetched, where one can be. -/
theorem State.fetch_placeWord (s : State) (w : Word) (hm : Memory.wf s.cfg.font s.mem)
    (h : s.cfg.addrOverflow = .wrap ∨ s.pc.toNat + 1 < 0x1000) : (s.placeWord w).fetch = some w := by
  have h0 : s.cfg.addrOverflow = .wrap ∨ s.pc.toNat < 0x1000 := h.imp_right fun h => by omega
  have hp : s.placeWord w = ((s.writeByte (s.pc.toNat % 0x1000) (hiByte w)).writeByte ((s.pc.toNat + 1) % 0x1000)
      (loByte w)).setMode .running := by
    simp [State.placeWord, State.addr_eq, h, h0]
  have hwf := s.writeByte_wf hm (s.pc.toNat % 0x1000) (Nat.mod_lt _ (by decide)) (hiByte w)
  rw [hp, State.fetch_eq]
  rw [if_pos (by simpa using h)]
  simp only [State.setMode_pc, State.setMode_readByte, State.writeByte_pc]
  rw [State.readByte_writeByte _ hwf, State.readByte_writeByte _ hwf, State.readByte_writeByte s hm]
  have hne : ¬ s.pc.toNat % 0x1000 = (s.pc.toNat + 1) % 0x1000 := by omega
  simp [hne]

end Sys2Proof.Machine
end

