-- ==== Sys2Proof/Laws/Display.lean ====
section
/-! SUPPORT. The display as a map and the blit over a list of pixels (44_display.md R180). -/

namespace Sys2Proof.Machine

/-- R29: a pixel after one is written. -/
theorem Display.get_put (d : Display) (p q : Point) (b : Bool) :
    Display.get (Display.put d p b) q = if q = p then b else Display.get d q := by
  obtain ⟨c, r⟩ := p
  obtain ⟨c', r'⟩ := q
  simp only [Display.get, Display.put, Vector.getElem_set, Prod.mk.injEq, Fin.ext_iff]
  by_cases hc : c.val = c'.val
  · by_cases hr : r.val = r'.val <;> simp [hc, hr, eq_comm]
  · simp [hc, show ¬ c'.val = c.val from fun h => hc h.symm]

/-- R29: two displays that read alike are equal. -/
theorem Display.ext_get (d d' : Display) (h : ∀ p, Display.get d p = Display.get d' p) : d = d' := by
  ext c hc r hr
  exact h (⟨c, hc⟩, ⟨r, hr⟩)

/-- R181: every pixel of the blank display is 0. -/
@[simp] theorem get_blankDisplay (p : Point) : Display.get blankDisplay p = false := by
  simp [Display.get, blankDisplay]

/-- R180: a blit of distinct pixels flips exactly those pixels. -/
theorem get_blit (d : Display) (ps : List Point) (h : ps.Nodup) (q : Point) :
    Display.get (blit d ps).1 q = (Display.get d q ^^ decide (q ∈ ps)) := by
  induction ps generalizing d with
  | nil => simp [blit]
  | cons p ps ih =>
    rw [List.nodup_cons] at h
    simp only [blit, xorPixel]
    rw [ih _ h.2, Display.get_put]
    by_cases hq : q = p
    · subst hq; simp [h.1]
    · simp [hq]

/-- R180: the collision output of a blit of distinct pixels: one of them was set. -/
theorem collided_blit (d : Display) (ps : List Point) (h : ps.Nodup) :
    (blit d ps).2 = true ↔ ∃ p ∈ ps, Display.get d p = true := by
  induction ps generalizing d with
  | nil => simp [blit]
  | cons p ps ih =>
    rw [List.nodup_cons] at h
    have hget : ∀ q ∈ ps, Display.get (Display.put d p (!Display.get d p)) q = Display.get d q := by
      intro q hq
      rw [Display.get_put, if_neg]
      rintro rfl
      exact h.1 hq
    simp only [blit, xorPixel, Bool.or_eq_true, ih _ h.2, List.mem_cons, exists_eq_or_imp]
    refine or_congr Iff.rfl ⟨?_, ?_⟩
    · rintro ⟨q, hq, hg⟩; exact ⟨q, hq, hget q hq ▸ hg⟩
    · rintro ⟨q, hq, hg⟩; exact ⟨q, hq, (hget q hq).symm ▸ hg⟩

/-- R182: which pixels the rows of a sprite cover. -/
theorem mem_spritePoints (cx cy : Byte) (r0 : Nat) (rows : List Byte) (p : Point) :
    p ∈ spritePoints cx cy r0 rows ↔
      ∃ k c : Nat, ∃ h : k < rows.length, c < 8 ∧ (rows[k]).getLsbD (7 - c) = true ∧
        p = spritePoint cx cy c (r0 + k) := by
  induction rows generalizing r0 with
  | nil => simp [spritePoints]
  | cons row rows ih =>
    simp only [spritePoints, List.mem_append, ih, rowPoints, List.mem_map, List.mem_filter, List.mem_range]
    constructor
    · rintro (⟨c, ⟨hc, hb⟩, rfl⟩ | ⟨k, c, h, hc, hb, rfl⟩)
      · exact ⟨0, c, by simp, hc, by simpa using hb, by simp⟩
      · exact ⟨k + 1, c, by simpa using h, hc, by simpa using hb, by rw [show r0 + 1 + k = r0 + (k + 1) by omega]⟩
    · rintro ⟨k, c, h, hc, hb, rfl⟩
      cases k with
      | zero => exact .inl ⟨c, ⟨hc, by simpa using hb⟩, by simp⟩
      | succ k =>
        exact .inr ⟨k, c, by simpa using h, hc, by simpa using hb, by rw [show r0 + 1 + k = r0 + (k + 1) by omega]⟩

/-- R182: "no pixel is XORed twice by one DXYN": the pixels of up to 32 rows are distinct. -/
theorem spritePoints_nodup (cx cy : Byte) (r0 : Nat) (rows : List Byte) (h : rows.length ≤ 32) :
    (spritePoints cx cy r0 rows).Nodup := by
  induction rows generalizing r0 with
  | nil => simp [spritePoints]
  | cons row rows ih =>
    simp only [List.length_cons] at h
    rw [spritePoints, List.nodup_append]
    refine ⟨?_, ih (r0 + 1) (by omega), ?_⟩
    · refine List.Nodup.map_on ?_ (List.nodup_range.filter _)
      intro a ha b hb hab
      simp only [List.mem_filter, List.mem_range] at ha hb
      simp only [spritePoint, Prod.mk.injEq, Fin.ext_iff, Fin.val_ofNat] at hab
      omega
    · rintro p hp q hq rfl
      obtain ⟨c, -, rfl⟩ := List.mem_map.1 hp
      obtain ⟨k, c', hk, -, -, he⟩ := (mem_spritePoints _ _ _ _ _).1 hq
      simp only [spritePoint, Prod.mk.injEq, Fin.ext_iff, Fin.val_ofNat] at he
      omega

end Sys2Proof.Machine
end

