-- ==== Sys2Proof/Laws/PerInstr.lean ====
section
/-! SUPPORT. Statements for all instructions, one lemma per constructor: the encoder against spec/opcode_table.json. -/

namespace Sys2Proof

/-- A 4-bit field under four mask bits of 1. -/
theorem nibble_and_F (f : Nibble) : f &&& 0xF#4 = f := by simpa using BitVec.and_allOnes (x := f)

/-- A 4-bit field under four mask bits of 0. -/
theorem nibble_and_0 (f : Nibble) : f &&& 0 = 0 := BitVec.and_zero

/-- The family of an `nnn` word under the table's mask. -/
theorem nnnWord_and_F000 (f : Nibble) (a : Addr) : nnnWord f a &&& 0xF000#16 = nnnWord f 0 := by
  have h : 0xF000#16 = nnnWord 0xF#4 0 := by decide
  have ha : a &&& 0 = 0 := BitVec.and_zero
  rw [h]
  unfold nnnWord
  rw [BitVec.and_append, nibble_and_F, ha]

/-- The family of an `x`, `nn` word under the table's mask. -/
theorem xnnWord_and_F000 (f x : Nibble) (nn : Byte) : xnnWord f x nn &&& 0xF000#16 = nnnWord f 0 :=
  nnnWord_and_F000 f (x ++ nn)

/-- The family of an `x`, `y`, `n` word under the table's mask. -/
theorem xynWord_and_F000 (f x y n : Nibble) : xynWord f x y n &&& 0xF000#16 = nnnWord f 0 :=
  nnnWord_and_F000 f (x ++ (y ++ n))

/-- The family and sub-opcode of an FXnn or EXnn word under the table's mask. -/
theorem xnnWord_and_F0FF (f x : Nibble) (nn : Byte) : xnnWord f x nn &&& 0xF0FF#16 = xnnWord f 0 nn := by
  have h : 0xF0FF#16 = xnnWord 0xF#4 0 0xFF#8 := by decide
  have hnn : nn &&& 0xFF#8 = nn := by simpa using BitVec.and_allOnes (x := nn)
  rw [h]
  unfold xnnWord
  rw [BitVec.and_append, BitVec.and_append, nibble_and_F, nibble_and_0, hnn]

/-- The family and sub-opcode of an `x`, `y`, `n` word under the table's mask. -/
theorem xynWord_and_F00F (f x y n : Nibble) : xynWord f x y n &&& 0xF00F#16 = xynWord f 0 0 n := by
  have h : 0xF00F#16 = xynWord 0xF#4 0 0 0xF#4 := by decide
  rw [h]
  unfold xynWord
  rw [BitVec.and_append, BitVec.and_append, BitVec.and_append, nibble_and_F, nibble_and_0, nibble_and_0, nibble_and_F]

end Sys2Proof

namespace Sys2Proof.Laws.EncodingRow

open Sys2Proof.Machine

/-- R74: the word of an instruction matches the row of spec/opcode_table.json that has its mnemonic. -/
def Statement (i : Instr) : Prop := ∃ r ∈ opcodeRows, r.mnemonic = mnemonicOf i ∧ r.Matches (encode i)

theorem cls : Statement .cls :=
  ⟨⟨"CLS", 0xFFFF, 0x00E0⟩, by decide, rfl, by decide⟩

theorem ret : Statement .ret :=
  ⟨⟨"RET", 0xFFFF, 0x00EE⟩, by decide, rfl, by decide⟩

theorem jp (nnn : Addr) : Statement (.jp nnn) :=
  ⟨⟨"JP", 0xF000, 0x1000⟩, by decide, rfl, nnnWord_and_F000 _ _⟩

theorem call (nnn : Addr) : Statement (.call nnn) :=
  ⟨⟨"CALL", 0xF000, 0x2000⟩, by decide, rfl, nnnWord_and_F000 _ _⟩

theorem seVxNn (x : Nibble) (nn : Byte) : Statement (.seVxNn x nn) :=
  ⟨⟨"SE_VX_NN", 0xF000, 0x3000⟩, by decide, rfl, xnnWord_and_F000 _ _ _⟩

theorem sneVxNn (x : Nibble) (nn : Byte) : Statement (.sneVxNn x nn) :=
  ⟨⟨"SNE_VX_NN", 0xF000, 0x4000⟩, by decide, rfl, xnnWord_and_F000 _ _ _⟩

theorem seVxVy (x y : Nibble) : Statement (.seVxVy x y) :=
  ⟨⟨"SE_VX_VY", 0xF00F, 0x5000⟩, by decide, rfl, xynWord_and_F00F _ _ _ _⟩

theorem ldVxNn (x : Nibble) (nn : Byte) : Statement (.ldVxNn x nn) :=
  ⟨⟨"LD_VX_NN", 0xF000, 0x6000⟩, by decide, rfl, xnnWord_and_F000 _ _ _⟩

theorem addVxNn (x : Nibble) (nn : Byte) : Statement (.addVxNn x nn) :=
  ⟨⟨"ADD_VX_NN", 0xF000, 0x7000⟩, by decide, rfl, xnnWord_and_F000 _ _ _⟩

theorem ldVxVy (x y : Nibble) : Statement (.ldVxVy x y) :=
  ⟨⟨"LD_VX_VY", 0xF00F, 0x8000⟩, by decide, rfl, xynWord_and_F00F _ _ _ _⟩

theorem or (x y : Nibble) : Statement (.or x y) :=
  ⟨⟨"OR", 0xF00F, 0x8001⟩, by decide, rfl, xynWord_and_F00F _ _ _ _⟩

theorem and (x y : Nibble) : Statement (.and x y) :=
  ⟨⟨"AND", 0xF00F, 0x8002⟩, by decide, rfl, xynWord_and_F00F _ _ _ _⟩

theorem xor (x y : Nibble) : Statement (.xor x y) :=
  ⟨⟨"XOR", 0xF00F, 0x8003⟩, by decide, rfl, xynWord_and_F00F _ _ _ _⟩

theorem addVxVy (x y : Nibble) : Statement (.addVxVy x y) :=
  ⟨⟨"ADD_VX_VY", 0xF00F, 0x8004⟩, by decide, rfl, xynWord_and_F00F _ _ _ _⟩

theorem sub (x y : Nibble) : Statement (.sub x y) :=
  ⟨⟨"SUB", 0xF00F, 0x8005⟩, by decide, rfl, xynWord_and_F00F _ _ _ _⟩

theorem shr (x y : Nibble) : Statement (.shr x y) :=
  ⟨⟨"SHR", 0xF00F, 0x8006⟩, by decide, rfl, xynWord_and_F00F _ _ _ _⟩

theorem subn (x y : Nibble) : Statement (.subn x y) :=
  ⟨⟨"SUBN", 0xF00F, 0x8007⟩, by decide, rfl, xynWord_and_F00F _ _ _ _⟩

theorem shl (x y : Nibble) : Statement (.shl x y) :=
  ⟨⟨"SHL", 0xF00F, 0x800E⟩, by decide, rfl, xynWord_and_F00F _ _ _ _⟩

theorem sneVxVy (x y : Nibble) : Statement (.sneVxVy x y) :=
  ⟨⟨"SNE_VX_VY", 0xF00F, 0x9000⟩, by decide, rfl, xynWord_and_F00F _ _ _ _⟩

theorem ldINnn (nnn : Addr) : Statement (.ldINnn nnn) :=
  ⟨⟨"LD_I_NNN", 0xF000, 0xA000⟩, by decide, rfl, nnnWord_and_F000 _ _⟩

theorem jpV0 (nnn : Addr) : Statement (.jpV0 nnn) :=
  ⟨⟨"JP_V0", 0xF000, 0xB000⟩, by decide, rfl, nnnWord_and_F000 _ _⟩

theorem rnd (x : Nibble) (nn : Byte) : Statement (.rnd x nn) :=
  ⟨⟨"RND", 0xF000, 0xC000⟩, by decide, rfl, xnnWord_and_F000 _ _ _⟩

theorem drw (x y n : Nibble) : Statement (.drw x y n) :=
  ⟨⟨"DRW", 0xF000, 0xD000⟩, by decide, rfl, xynWord_and_F000 _ _ _ _⟩

theorem skp (x : Nibble) : Statement (.skp x) :=
  ⟨⟨"SKP", 0xF0FF, 0xE09E⟩, by decide, rfl, xnnWord_and_F0FF _ _ _⟩

theorem sknp (x : Nibble) : Statement (.sknp x) :=
  ⟨⟨"SKNP", 0xF0FF, 0xE0A1⟩, by decide, rfl, xnnWord_and_F0FF _ _ _⟩

theorem ldVxDt (x : Nibble) : Statement (.ldVxDt x) :=
  ⟨⟨"LD_VX_DT", 0xF0FF, 0xF007⟩, by decide, rfl, xnnWord_and_F0FF _ _ _⟩

theorem ldVxK (x : Nibble) : Statement (.ldVxK x) :=
  ⟨⟨"LD_VX_K", 0xF0FF, 0xF00A⟩, by decide, rfl, xnnWord_and_F0FF _ _ _⟩

theorem ldDtVx (x : Nibble) : Statement (.ldDtVx x) :=
  ⟨⟨"LD_DT_VX", 0xF0FF, 0xF015⟩, by decide, rfl, xnnWord_and_F0FF _ _ _⟩

theorem ldStVx (x : Nibble) : Statement (.ldStVx x) :=
  ⟨⟨"LD_ST_VX", 0xF0FF, 0xF018⟩, by decide, rfl, xnnWord_and_F0FF _ _ _⟩

theorem addIVx (x : Nibble) : Statement (.addIVx x) :=
  ⟨⟨"ADD_I_VX", 0xF0FF, 0xF01E⟩, by decide, rfl, xnnWord_and_F0FF _ _ _⟩

theorem ldFVx (x : Nibble) : Statement (.ldFVx x) :=
  ⟨⟨"LD_F_VX", 0xF0FF, 0xF029⟩, by decide, rfl, xnnWord_and_F0FF _ _ _⟩

theorem ldBVx (x : Nibble) : Statement (.ldBVx x) :=
  ⟨⟨"LD_B_VX", 0xF0FF, 0xF033⟩, by decide, rfl, xnnWord_and_F0FF _ _ _⟩

theorem ldMemVx (x : Nibble) : Statement (.ldMemVx x) :=
  ⟨⟨"LD_MEM_VX", 0xF0FF, 0xF055⟩, by decide, rfl, xnnWord_and_F0FF _ _ _⟩

theorem ldVxMem (x : Nibble) : Statement (.ldVxMem x) :=
  ⟨⟨"LD_VX_MEM", 0xF0FF, 0xF065⟩, by decide, rfl, xnnWord_and_F0FF _ _ _⟩

end Sys2Proof.Laws.EncodingRow
end

