-- ==== Sys2Proof/Laws/Step.lean ====
section
/-! SUPPORT. What the shared meanings and the step can do: one case lemma each, by which no later proof unfolds them. -/

namespace Sys2Proof.Machine

/-- R163, R164: a store at I: a halt that changes only `mode`, or all the writes and the advance. -/
theorem State.storeAtI_cases (s : State) (i : Instr) (ys : List Byte) :
    (¬ IndexInRange s ys.length ∧
        s.storeAtI i ys = .next (s.raiseHalt .addressOutOfRange (some (encode i)))) ∨
      (IndexInRange s ys.length ∧
        s.storeAtI i ys =
          .next (s.writeCells (((List.range ys.length).map (indexAddr s)).zip ys)).advance) := by
  by_cases h : IndexInRange s ys.length
  · exact .inr ⟨h, by simp [State.storeAtI, s.indexed_of_inRange _ h]⟩
  · exact .inl ⟨h, by simp [State.storeAtI, s.indexed_of_not_inRange _ h]⟩

/-- R165: the same for the block load. -/
theorem execLdVxMem_cases (x : Nibble) (s : State) :
    (¬ IndexInRange s (x.toNat + 1) ∧
        execLdVxMem x s = .next (s.raiseHalt .addressOutOfRange (some (encode (.ldVxMem x))))) ∨
      (IndexInRange s (x.toNat + 1) ∧
        execLdVxMem x s = .next
          (s.loadRegs 0 ((List.range (x.toNat + 1)).map fun k => s.readByte (indexAddr s k))).advance) := by
  by_cases h : IndexInRange s (x.toNat + 1)
  · exact .inr ⟨h, by simp only [execLdVxMem, s.indexed_of_inRange _ h, List.map_map]; rfl⟩
  · exact .inl ⟨h, by simp [execLdVxMem, s.indexed_of_not_inRange _ h]⟩

/-- R182: the sprite rows that a DRW reads. -/
def spriteRows (s : State) (n : Nibble) : List Byte :=
  (List.range n.toNat).map fun k => s.readByte (indexAddr s k)

/-- R182: the pixels that a DRW XORs. -/
def drawnPoints (s : State) (x y n : Nibble) : List Point :=
  spritePoints (s.reg x) (s.reg y) 0 (spriteRows s n)

/-- R182: a DRW halts, or blits its pixels and writes VF. -/
theorem execDrw_cases (x y n : Nibble) (s : State) :
    (¬ IndexInRange s n.toNat ∧
        execDrw x y n s = .next (s.raiseHalt .addressOutOfRange (some (encode (.drw x y n))))) ∨
      (IndexInRange s n.toNat ∧
        execDrw x y n s = .next
          ((s.setDisp (blit s.disp (drawnPoints s x y n)).1).setFlag
            (flagByte (blit s.disp (drawnPoints s x y n)).2)).advance) := by
  by_cases h : IndexInRange s n.toNat
  · exact .inr ⟨h, by simp only [execDrw, s.indexed_of_inRange _ h, List.map_map]; rfl⟩
  · exact .inl ⟨h, by simp [execDrw, s.indexed_of_not_inRange _ h]⟩

/-- R182: the pixels of one DRW are distinct. -/
theorem drawnPoints_nodup (s : State) (x y n : Nibble) : (drawnPoints s x y n).Nodup :=
  spritePoints_nodup _ _ _ _ (by simp [spriteRows]; omega)

/-- R182: a DRW's pixels are those its sprite covers. -/
theorem mem_drawnPoints (s : State) (x y n : Nibble) (c : Fin 64) (r : Fin 32) :
    (c, r) ∈ drawnPoints s x y n ↔ SpriteCovers s x y n c r := by
  simp only [drawnPoints, mem_spritePoints, SpriteCovers, spriteRows, List.length_map, List.length_range,
    List.getElem_map, List.getElem_range, spritePoint, Prod.mk.injEq, Fin.ext_iff, Fin.val_ofNat, Nat.zero_add]
  constructor
  · rintro ⟨k, c', hk, hc, hb, h1, h2⟩; exact ⟨k, c', hk, hc, hb, h1, h2⟩
  · rintro ⟨k, c', hk, hc, hb, h1, h2⟩; exact ⟨k, c', hk, hc, hb, h1, h2⟩

/-- R201, R202: a key skip halts, or skips on the level of the indexed key. -/
theorem execSkp_cases (x : Nibble) (s : State) :
    (s.keyIndex (s.reg x) = none ∧
        execSkp x s = .next (s.raiseHalt .keyIndexOutOfRange (some (encode (.skp x))))) ∨
      ∃ k, s.keyIndex (s.reg x) = some k ∧ execSkp x s = .next (s.skipIf (s.keyDown k)) := by
  unfold execSkp
  cases s.keyIndex (s.reg x) <;> simp

theorem execSknp_cases (x : Nibble) (s : State) :
    (s.keyIndex (s.reg x) = none ∧
        execSknp x s = .next (s.raiseHalt .keyIndexOutOfRange (some (encode (.sknp x))))) ∨
      ∃ k, s.keyIndex (s.reg x) = some k ∧ execSknp x s = .next (s.skipIf (!s.keyDown k)) := by
  unfold execSknp
  cases s.keyIndex (s.reg x) <;> simp

/-- R97, R98: a step of the key wait. -/
theorem State.continueKeyWait_cases (s : State) (x : Nibble) :
    (s.edge = none ∧ s.continueKeyWait x = s) ∨
      ∃ k, s.edge = some k ∧ s.continueKeyWait x =
        ((s.setReg x (k.setWidth 8)).advance.setMode .running).setEdge none := by
  unfold State.continueKeyWait
  cases s.edge <;> simp

/-- R90, R91: everything a step can do. -/
theorem step_cases (s t : State) (h : step s = .next t) :
    (s.mode = .running ∧ s.fetch = none ∧ t = s.raiseHalt .addressOutOfRange none) ∨
      (∃ w, s.mode = .running ∧ s.fetch = some w ∧ decode w = .unknown w ∧
        t = s.raiseHalt .unknownOpcode (some w)) ∨
      (∃ w i, s.mode = .running ∧ s.fetch = some w ∧ decode w = .instr i ∧ exec i s = .next t) ∨
      (∃ x, s.mode = .awaitingKey x ∧ t = s.continueKeyWait x) ∨
      (s.mode.isHalted = true ∧ t = s) := by
  unfold step stepByMode at h
  split at h
  · rename_i hm
    unfold executeOne at h
    split at h
    · exact .inl ⟨hm, ‹_›, by cases h; rfl⟩
    · rename_i w hw
      split at h
      · rename_i w' hd
        have := decode_unknown_word w w' hd
        subst this
        exact .inr (.inl ⟨_, hm, hw, hd, by cases h; rfl⟩)
      · exact .inr (.inr (.inl ⟨_, _, hm, hw, ‹_›, h⟩))
  · exact .inr (.inr (.inr (.inl ⟨_, ‹_›, by cases h; rfl⟩)))
  · rename_i hm
    exact .inr (.inr (.inr (.inr ⟨by rw [hm]; rfl, by cases h; rfl⟩)))

end Sys2Proof.Machine
end

