-- ==== Sys2Proof/Machine/AsmText.lean ====
section
/-! DEFINITION. The assembler syntax of 30_encoding.md R78 (the spec's own choice, D18, log 28): the line that a decoded
word is written as. Presentation only: no step reads it. -/

namespace Sys2Proof.Machine

/-- R78: an uppercase hex digit. -/
def hexDigit (d : Nibble) : String :=
  #v["0", "1", "2", "3", "4", "5", "6", "7", "8", "9", "A", "B", "C", "D", "E", "F"][d.toNat]

/-- R78: "Registers are written V0..VF". -/
def regText (x : Nibble) : String := "V" ++ hexDigit x

/-- R78: `nn` is `0x` plus 2 hex digits. -/
def nnText (nn : Byte) : String := "0x" ++ hexDigit (nn.extractLsb' 4 4) ++ hexDigit (nn.extractLsb' 0 4)

/-- R78: `nnn` is `0x` plus 3 hex digits. -/
def nnnText (nnn : Addr) : String :=
  "0x" ++ hexDigit (nnn.extractLsb' 8 4) ++ hexDigit (nnn.extractLsb' 4 4) ++ hexDigit (nnn.extractLsb' 0 4)

/-- R78: "n is written in decimal". -/
def nText (n : Nibble) : String :=
  #v["0", "1", "2", "3", "4", "5", "6", "7", "8", "9", "10", "11", "12", "13", "14", "15"][n.toNat]

/-- R78: `.word 0xHHHH`. -/
def wordText (w : Word) : String :=
  ".word 0x" ++ hexDigit (w.extractLsb' 12 4) ++ hexDigit (w.extractLsb' 8 4) ++ hexDigit (w.extractLsb' 4 4) ++
    hexDigit (w.extractLsb' 0 4)

/-- A mnemonic with one operand. -/
def line1 (mnemonic a : String) : String := mnemonic ++ " " ++ a

/-- A mnemonic with two operands. -/
def line2 (mnemonic a b : String) : String := mnemonic ++ " " ++ a ++ ", " ++ b

/-- R78: the syntax of each pattern. SHR and SHL print the y that they do not read. -/
def asmText : Instr → String
  | .cls => "CLS"
  | .ret => "RET"
  | .jp nnn => line1 "JP" (nnnText nnn)
  | .call nnn => line1 "CALL" (nnnText nnn)
  | .seVxNn x nn => line2 "SE" (regText x) (nnText nn)
  | .sneVxNn x nn => line2 "SNE" (regText x) (nnText nn)
  | .seVxVy x y => line2 "SE" (regText x) (regText y)
  | .ldVxNn x nn => line2 "LD" (regText x) (nnText nn)
  | .addVxNn x nn => line2 "ADD" (regText x) (nnText nn)
  | .ldVxVy x y => line2 "LD" (regText x) (regText y)
  | .or x y => line2 "OR" (regText x) (regText y)
  | .and x y => line2 "AND" (regText x) (regText y)
  | .xor x y => line2 "XOR" (regText x) (regText y)
  | .addVxVy x y => line2 "ADD" (regText x) (regText y)
  | .sub x y => line2 "SUB" (regText x) (regText y)
  | .shr x y => line2 "SHR" (regText x) (regText y)
  | .subn x y => line2 "SUBN" (regText x) (regText y)
  | .shl x y => line2 "SHL" (regText x) (regText y)
  | .sneVxVy x y => line2 "SNE" (regText x) (regText y)
  | .ldINnn nnn => line2 "LD" "I" (nnnText nnn)
  | .jpV0 nnn => line2 "JP" "V0" (nnnText nnn)
  | .rnd x nn => line2 "RND" (regText x) (nnText nn)
  | .drw x y n => line2 "DRW" (regText x) (regText y) ++ ", " ++ nText n
  | .skp x => line1 "SKP" (regText x)
  | .sknp x => line1 "SKNP" (regText x)
  | .ldVxDt x => line2 "LD" (regText x) "DT"
  | .ldVxK x => line2 "LD" (regText x) "K"
  | .ldDtVx x => line2 "LD" "DT" (regText x)
  | .ldStVx x => line2 "LD" "ST" (regText x)
  | .addIVx x => line2 "ADD" "I" (regText x)
  | .ldFVx x => line2 "LD" "F" (regText x)
  | .ldBVx x => line2 "LD" "B" (regText x)
  | .ldMemVx x => line2 "LD" "[I]" (regText x)
  | .ldVxMem x => line2 "LD" (regText x) "[I]"

/-- R78: the line of a decoded word, an unknown one among them. -/
def decodedText : Decoded → String
  | .instr i => asmText i
  | .unknown w => wordText w

end Sys2Proof.Machine
end

