-- ==== Sys2Proof/Tests/Slice0.lean ====
section
/-! SUPPORT. The model's own tests. Expected results are from the spec's worked examples and vectors
(95_test_vectors.md, by their ids) or from its encoding strings (opcode_table.json), never from the model. -/

namespace Sys2Proof.Tests

set_option Elab.async false

open Sys2Proof.Machine

/-! ## Well-formedness: a term that each check refuses (R70) -/

theorem test_wellFormed_accepts : (Fields.mk 0x6 0xA 0x0 0x5 0x05 0xA05).wellFormed = true := by decide
theorem test_wellFormed_refuses_nn : (Fields.mk 0x6 0xA 0x0 0x5 0x06 0xA05).wellFormed = false := by decide
theorem test_wellFormed_refuses_nnn : (Fields.mk 0x6 0xA 0x0 0x5 0x05 0xB05).wellFormed = false := by decide

/-! ## Decoding: one word per constructor, bit by bit from the encoding strings of opcode_table.json -/

theorem test_decode_cls : decode 0b0000000011100000#16 = .instr (.cls) := by decide
theorem test_decode_ret : decode 0b0000000011101110#16 = .instr (.ret) := by decide
theorem test_decode_jp : decode 0b0001001000110100#16 = .instr (.jp 0x234) := by decide
theorem test_decode_call : decode 0b0010001100000000#16 = .instr (.call 0x300) := by decide
theorem test_decode_seVxNn : decode 0b0011001101000010#16 = .instr (.seVxNn 3 0x42) := by decide
theorem test_decode_sneVxNn : decode 0b0100001111111111#16 = .instr (.sneVxNn 3 0xFF) := by decide
theorem test_decode_seVxVy : decode 0b0101000100100000#16 = .instr (.seVxVy 1 2) := by decide
theorem test_decode_ldVxNn : decode 0b0110101000000101#16 = .instr (.ldVxNn 0xA 0x05) := by decide
theorem test_decode_addVxNn : decode 0b0111001000000010#16 = .instr (.addVxNn 2 0x02) := by decide
theorem test_decode_ldVxVy : decode 0b1000000000010000#16 = .instr (.ldVxVy 0 1) := by decide
theorem test_decode_or : decode 0b1000000000010001#16 = .instr (.or 0 1) := by decide
theorem test_decode_and : decode 0b1000000000010010#16 = .instr (.and 0 1) := by decide
theorem test_decode_xor : decode 0b1000010101010011#16 = .instr (.xor 5 5) := by decide
theorem test_decode_addVxVy : decode 0b1000111100010100#16 = .instr (.addVxVy 0xF 1) := by decide
theorem test_decode_sub : decode 0b1000011101110101#16 = .instr (.sub 7 7) := by decide
theorem test_decode_shr : decode 0b1000001000110110#16 = .instr (.shr 2 3) := by decide
theorem test_decode_subn : decode 0b1000000000010111#16 = .instr (.subn 0 1) := by decide
theorem test_decode_shl : decode 0b1000001000001110#16 = .instr (.shl 2 0) := by decide
theorem test_decode_sneVxVy : decode 0b1001000100100000#16 = .instr (.sneVxVy 1 2) := by decide
theorem test_decode_ldINnn : decode 0b1010001011110000#16 = .instr (.ldINnn 0x2F0) := by decide
theorem test_decode_jpV0 : decode 0b1011111111111111#16 = .instr (.jpV0 0xFFF) := by decide
theorem test_decode_rnd : decode 0b1100001100001111#16 = .instr (.rnd 3 0x0F) := by decide
theorem test_decode_drw : decode 0b1101000000010101#16 = .instr (.drw 0 1 5) := by decide
theorem test_decode_skp : decode 0b1110000110011110#16 = .instr (.skp 1) := by decide
theorem test_decode_sknp : decode 0b1110000110100001#16 = .instr (.sknp 1) := by decide
theorem test_decode_ldVxDt : decode 0b1111010100000111#16 = .instr (.ldVxDt 5) := by decide
theorem test_decode_ldVxK : decode 0b1111001100001010#16 = .instr (.ldVxK 3) := by decide
theorem test_decode_ldDtVx : decode 0b1111010100010101#16 = .instr (.ldDtVx 5) := by decide
theorem test_decode_ldStVx : decode 0b1111001000011000#16 = .instr (.ldStVx 2) := by decide
theorem test_decode_addIVx : decode 0b1111000100011110#16 = .instr (.addIVx 1) := by decide
theorem test_decode_ldFVx : decode 0b1111010000101001#16 = .instr (.ldFVx 4) := by decide
theorem test_decode_ldBVx : decode 0b1111011100110011#16 = .instr (.ldBVx 7) := by decide
theorem test_decode_ldMemVx : decode 0b1111001001010101#16 = .instr (.ldMemVx 2) := by decide
theorem test_decode_ldVxMem : decode 0b1111001001100101#16 = .instr (.ldVxMem 2) := by decide

/-- S-08, S-09, F-19, F-23, A-33, S-07: illegal words, one per family of R76. -/
theorem test_decode_illegal :
    decode 0x01E0#16 = .unknown 0x01E0#16 ∧ decode 0x0FEE#16 = .unknown 0x0FEE#16 ∧
    decode 0x5121#16 = .unknown 0x5121#16 ∧ decode 0x912E#16 = .unknown 0x912E#16 ∧
    decode 0x8018#16 = .unknown 0x8018#16 ∧ decode 0xE19F#16 = .unknown 0xE19F#16 ∧
    decode 0xFFFF#16 = .unknown 0xFFFF#16 := by decide

theorem test_decodeBytes_truncated : decodeBytes [0x6A] = .error .truncated := by rfl

/-- R71: the bytes 0x6A, 0x05 form the word 0x6A05. -/
theorem test_decodeBytes_bigEndian : decodeBytes [0x6A, 0x05, 0x77] = .ok (.ldVxNn 0xA 0x05, [0x77]) := by rfl

/-- R78: lines of the listings P1, P2, P4, P6, and an unknown word. -/
theorem test_asmText :
    decodedText (decode 0x8014#16) = "ADD V0, V1" ∧ decodedText (decode 0xF265#16) = "LD V2, [I]" ∧
    decodedText (decode 0xD013#16) = "DRW V0, V1, 3" ∧ decodedText (decode 0xB206#16) = "JP V0, 0x206" ∧
    decodedText (decode 0x620B#16) = "LD V2, 0x0B" ∧ decodedText (decode 0xFFFF#16) = ".word 0xFFFF" := by
  decide +kernel

/-! ## One step on a small state -/

/-- The state at construction with PC, and the word `w` at PC. -/
def at_ (pc : Word) (w : Nat) : State := ({ State.reset with pc := pc }).withFetchWord 16 w

/-- The state after one `step()`. -/
def after (s : State) : State := HostOp.apply s .step

/-- The same block with `P_ADDR_OVERFLOW` = halt. -/
def addrHalt (s : State) : State := { s with cfg := { s.cfg with addrOverflow := .halt } }

/-- The same block with `P_KEY_INDEX` = halt. -/
def keyHalt (s : State) : State := { s with cfg := { s.cfg with keyIndex := .halt } }

/-- The same block with a value of `P_FX1E_VF`. -/
def fx1e (f : Fx1eVf) (s : State) : State := { s with cfg := { s.cfg with fx1eVf := f } }

/-- S-01. -/
theorem test_S_01_unloaded :
    (after State.reset).mode = .halted .unknownOpcode (some 0x0000) 0x200 ∧ (after State.reset).pc = 0x200 := by
  decide +kernel

/-- S-03. -/
theorem test_S_03_fetch_wraps :
    (after { State.reset with pc := 0xFFF, mem := [(0xFFF, 0x12)] }).pc = 0x2F0 := by
  decide +kernel

/-- S-04. -/
theorem test_S_04_fetch_halts :
    (after (addrHalt { State.reset with pc := 0xFFF, mem := [(0xFFF, 0x12)] })).mode = .halted .addressOutOfRange none 0xFFF := by
  decide +kernel

/-- S-05. -/
theorem test_S_05_pc_wraps :
    (after (at_ 0xFFE 0x6001)).reg 0 = 0x01 ∧ (after (at_ 0xFFE 0x6001)).pc = 0x000 := by
  decide +kernel

/-- S-06. -/
theorem test_S_06_odd_pc :
    (after (at_ 0x201 0x6005)).reg 0 = 0x05 ∧ (after (at_ 0x201 0x6005)).pc = 0x203 := by
  decide +kernel

/-- F-01. -/
theorem test_F_01_jp :
    (after (at_ 0x200 0x1234)).pc = 0x234 := by
  decide +kernel

/-- F-06. -/
theorem test_F_06_call_wraps :
    let t := after (at_ 0xFFE 0x2ABC); t.sp = 1 ∧ t.stack[0] = 0x000 ∧ t.pc = 0xABC := by
  decide +kernel

/-- F-05. -/
theorem test_F_05_call_overflow :
    let t := after ((at_ 0x200 0x2300).setSp 16); t.mode = .halted .stackOverflow (some 0x2300) 0x200 ∧ t.sp = 16 ∧ t.pc = 0x200 := by
  decide +kernel

/-- F-08. -/
theorem test_F_08_ret :
    let t := after (((at_ 0x300 0x00EE).setSp 16).setStackEntry 15 0x456); t.sp = 15 ∧ t.pc = 0x456 := by
  decide +kernel

/-- F-09. -/
theorem test_F_09_ret_underflow :
    (after (at_ 0x300 0x00EE)).mode = .halted .stackUnderflow (some 0x00EE) 0x300 := by
  decide +kernel

/-- F-11. -/
theorem test_F_11_se_nn :
    (after ((at_ 0x200 0x3342).setReg 3 0x42)).pc = 0x204 := by
  decide +kernel

/-- F-12. -/
theorem test_F_12_se_nn_not :
    (after ((at_ 0x200 0x3342).setReg 3 0x41)).pc = 0x202 := by
  decide +kernel

/-- F-14. -/
theorem test_F_14_sne_nn :
    (after ((at_ 0x200 0x4342).setReg 3 0x42)).pc = 0x202 := by
  decide +kernel

/-- F-15. -/
theorem test_F_15_sne_nn_skips :
    (after (at_ 0x200 0x43FF)).pc = 0x204 := by
  decide +kernel

/-- F-16. -/
theorem test_F_16_se_vy :
    (after (((at_ 0x300 0x5120).setReg 1 7).setReg 2 7)).pc = 0x304 := by
  decide +kernel

/-- F-17. -/
theorem test_F_17_se_vy_not :
    (after (((at_ 0x300 0x5120).setReg 1 7).setReg 2 8)).pc = 0x302 := by
  decide +kernel

/-- F-20. -/
theorem test_F_20_sne_vy :
    (after (((at_ 0x300 0x9120).setReg 1 7).setReg 2 8)).pc = 0x304 := by
  decide +kernel

/-- F-22. -/
theorem test_F_22_sne_same :
    (after (at_ 0x300 0x9110)).pc = 0x302 := by
  decide +kernel

/-- F-28. -/
theorem test_F_28_jpV0_wraps :
    (after ((at_ 0x200 0xBFFF).setReg 0 0xFF)).pc = 0x0FE := by
  decide +kernel

/-- F-29. -/
theorem test_F_29_jpV0_uses_V0 :
    (after ((at_ 0x200 0xB301).setReg 3 5)).pc = 0x301 := by
  decide +kernel

/-- A-02. -/
theorem test_A_02_ld_vf :
    (after (at_ 0x200 0x6FFF)).reg 0xF = 0xFF := by
  decide +kernel

/-- A-03. -/
theorem test_A_03_add_nn :
    let t := after (((at_ 0x200 0x7202).setReg 2 0xFF).setReg 0xF 0x77); t.reg 2 = 0x01 ∧ t.reg 0xF = 0x77 := by
  decide +kernel

/-- A-06. -/
theorem test_A_06_ld_vy :
    (after ((at_ 0x200 0x8010).setReg 1 0x33)).reg 0 = 0x33 := by
  decide +kernel

/-- A-08. -/
theorem test_A_08_or :
    let t := after ((((at_ 0x200 0x8011).setReg 0 0x0F).setReg 1 0xF0).setReg 0xF 0x55); t.reg 0 = 0xFF ∧ t.reg 0xF = 0x55 := by
  decide +kernel

/-- A-09. -/
theorem test_A_09_and :
    let t := after ((((at_ 0x200 0x8012).setReg 0 0x3C).setReg 1 0x0F).setReg 0xF 0x55); t.reg 0 = 0x0C ∧ t.reg 0xF = 0x55 := by
  decide +kernel

/-- A-10. -/
theorem test_A_10_xor :
    let t := after ((((at_ 0x200 0x8013).setReg 0 0xFF).setReg 1 0x0F).setReg 0xF 0x55); t.reg 0 = 0xF0 ∧ t.reg 0xF = 0x55 := by
  decide +kernel

/-- A-12. -/
theorem test_A_12_add_carry :
    let t := after (((at_ 0x200 0x8014).setReg 0 0xF0).setReg 1 0x20); t.reg 0 = 0x10 ∧ t.reg 0xF = 1 := by
  decide +kernel

/-- A-16. -/
theorem test_A_16_add_into_vf :
    (after (((at_ 0x200 0x8F14).setReg 0xF 0xF0).setReg 1 0x20)).reg 0xF = 1 := by
  decide +kernel

/-- A-18. -/
theorem test_A_18_sub_borrow :
    let t := after ((((at_ 0x200 0x8015).setReg 0 0x10).setReg 1 0x20).setReg 0xF 0x55); t.reg 0 = 0xF0 ∧ t.reg 0xF = 0 := by
  decide +kernel

/-- A-20. -/
theorem test_A_20_sub_equal :
    let t := after (((at_ 0x200 0x8015).setReg 0 0x42).setReg 1 0x42); t.reg 0 = 0 ∧ t.reg 0xF = 1 := by
  decide +kernel

/-- A-25. -/
theorem test_A_25_shr_ignores_y :
    let t := after (((at_ 0x200 0x8236).setReg 2 0x05).setReg 3 0xFF); t.reg 2 = 0x02 ∧ t.reg 0xF = 1 := by
  decide +kernel

/-- A-26. -/
theorem test_A_26_shr_vf :
    (after ((at_ 0x200 0x8F06).setReg 0xF 0x03)).reg 0xF = 1 := by
  decide +kernel

/-- A-27. -/
theorem test_A_27_subn :
    let t := after ((((at_ 0x200 0x8017).setReg 0 0x20).setReg 1 0x10).setReg 0xF 0x55); t.reg 0 = 0xF0 ∧ t.reg 0xF = 0 := by
  decide +kernel

/-- A-28. -/
theorem test_A_28_subn_no_borrow :
    let t := after (((at_ 0x200 0x8017).setReg 0 0x10).setReg 1 0x20); t.reg 0 = 0x10 ∧ t.reg 0xF = 1 := by
  decide +kernel

/-- A-30. -/
theorem test_A_30_shl :
    let t := after ((at_ 0x200 0x820E).setReg 2 0x81); t.reg 2 = 0x02 ∧ t.reg 0xF = 1 := by
  decide +kernel

/-- A-31. -/
theorem test_A_31_shl_zero :
    let t := after (((at_ 0x200 0x820E).setReg 2 0x40).setReg 0xF 1); t.reg 2 = 0x80 ∧ t.reg 0xF = 0 := by
  decide +kernel

/-- M-02. -/
theorem test_M_02_ld_i :
    (after (at_ 0x200 0xAFFF)).i = 0xFFF ∧ (after (at_ 0x200 0xAFFF)).pc = 0x202 := by
  decide +kernel

/-- M-05. -/
theorem test_M_05_add_i_unchanged :
    let t := after (fx1e .unchanged ((((at_ 0x200 0xF11E).setI 0xFFF).setReg 1 1).setReg 0xF 0x77)); t.i = 0x000 ∧ t.reg 0xF = 0x77 := by
  decide +kernel

/-- M-07. -/
theorem test_M_07_add_i_overflow :
    let t := after (fx1e .overflow (((at_ 0x200 0xFF1E).setI 0xFF0).setReg 0xF 0x20)); t.i = 0x010 ∧ t.reg 0xF = 1 := by
  decide +kernel

/-- M-10. -/
theorem test_M_10_font_address :
    (after ((at_ 0x200 0xF429).setReg 4 0x1A)).i = 0x032 := by
  decide +kernel

/-- M-13. -/
theorem test_M_13_bcd :
    let t := after (((at_ 0x200 0xF733).setReg 7 0xFE).setI 0x300); t.readByte 0x300 = 2 ∧ t.readByte 0x301 = 5 ∧ t.readByte 0x302 = 4 := by
  decide +kernel

/-- M-17. -/
theorem test_M_17_bcd_wraps :
    let t := after (((at_ 0x200 0xF033).setReg 0 0x7B).setI 0xFFE); t.readByte 0xFFE = 1 ∧ t.readByte 0xFFF = 2 ∧ t.readByte 0x000 = 3 := by
  decide +kernel

/-- M-22. -/
theorem test_M_22_store_wraps :
    let t := after ((((at_ 0x200 0xF155).setReg 0 0xAA).setReg 1 0xBB).setI 0xFFF); t.readByte 0xFFF = 0xAA ∧ t.readByte 0x000 = 0xBB ∧ t.i = 0xFFF := by
  decide +kernel

/-- M-23. -/
theorem test_M_23_store_halts :
    let t := after (addrHalt ((((at_ 0x200 0xF155).setReg 0 0xAA).setReg 1 0xBB).setI 0xFFF)); t.mode = .halted .addressOutOfRange (some 0xF155) 0x200 ∧ t.readByte 0xFFF = 0 := by
  decide +kernel

/-- M-24. -/
theorem test_M_24_load :
    let t := after ((({ at_ 0x200 0xF265 with i := 0x400 }.writeByte 0x400 0x11).writeByte 0x401 0x22).writeByte 0x402 0x33); t.reg 0 = 0x11 ∧ t.reg 1 = 0x22 ∧ t.reg 2 = 0x33 ∧ t.reg 3 = 0 := by
  decide +kernel

/-- M-26. -/
theorem test_M_26_load_font :
    let t := after (at_ 0x200 0xF165); t.reg 0 = 0xF0 ∧ t.reg 1 = 0x90 ∧ t.i = 0 := by
  decide +kernel

/-- D-01. -/
theorem test_D_01_cls :
    let t := after (((at_ 0x200 0x00E0).setDisp (Display.put (Display.put blankDisplay (0, 0) true) (63, 31) true)).setReg 0xF 1); t.disp = blankDisplay ∧ t.reg 0xF = 1 := by
  decide +kernel

/-- D-05. -/
theorem test_D_05_draw_wraps :
    let t := after ((({ at_ 0x200 0xD011 with i := 0x300 }.writeByte 0x300 0xC3).setReg 0 0x3E).setReg 1 0x1F); t.pix 62 31 = true ∧ t.pix 63 31 = true ∧ t.pix 4 31 = true ∧ t.pix 5 31 = true ∧ t.pix 0 31 = false ∧ t.reg 0xF = 0 := by
  decide +kernel

/-- D-08. -/
theorem test_D_08_draw_collides :
    let t := after (({ at_ 0x200 0xD011 with i := 0x300 }.writeByte 0x300 0x30).setDisp (Display.put blankDisplay (3, 0) true)); t.pix 2 0 = true ∧ t.pix 3 0 = false ∧ t.reg 0xF = 1 := by
  decide +kernel

/-- K-01. -/
theorem test_K_01_skp :
    (after (((at_ 0x210 0xE19E).setReg 1 5).setKeyLevel 5 true)).pc = 0x214 := by
  decide +kernel

/-- K-06. -/
theorem test_K_06_skp_halts :
    (after (keyHalt (((at_ 0x210 0xE19E).setReg 1 0x15).setKeyLevel 5 true))).mode = .halted .keyIndexOutOfRange (some 0xE19E) 0x210 := by
  decide +kernel

/-- K-03. -/
theorem test_K_03_sknp :
    (after ((at_ 0x210 0xE1A1).setReg 1 5)).pc = 0x214 := by
  decide +kernel

/-- K-04. -/
theorem test_K_04_sknp_pressed :
    (after (((at_ 0x210 0xE1A1).setReg 1 5).setKeyLevel 5 true)).pc = 0x212 := by
  decide +kernel

/-- K-07. -/
theorem test_K_07_wait :
    let t := after (at_ 0x220 0xF30A); t.mode = .awaitingKey 3 ∧ t.pc = 0x220 := by
  decide +kernel

/-- T-01. -/
theorem test_T_01_read_dt :
    (after ((at_ 0x200 0xF507).setDt 0x3C)).reg 5 = 0x3C := by
  decide +kernel

/-- T-02. -/
theorem test_T_02_set_dt :
    (after ((at_ 0x200 0xF515).setReg 5 0x3C)).dt = 60 := by
  decide +kernel

/-- T-03. -/
theorem test_T_03_set_st :
    let t := after ((at_ 0x200 0xF218).setReg 2 2); t.st = 2 ∧ t.soundActive = true := by
  decide +kernel

/-- A-35 to A-37: whatever the draw, RND masks it; nn = 0x00 gives 0. -/
theorem test_A_36_rnd_masked : (after (at_ 0x200 0xC300)).reg 3 = 0 ∧ (after (at_ 0x200 0xC300)).pc = 0x202 := by
  refine ⟨?_, by decide +kernel⟩
  have h : (after (at_ 0x200 0xC300)).reg 3 = Config.draw 0 &&& 0 := by rfl
  rw [h]
  exact BitVec.and_zero

/-! ## Ports -/

/-- K-10. -/
theorem test_K_10_edge_latched :
    let t := ({ State.reset with mode := .awaitingKey 3, pc := 0x220 }).setKey 7 true; t.keyDown 7 = true ∧ t.edge = some 7 := by
  decide +kernel

/-- K-12. -/
theorem test_K_12_first_edge_wins :
    let t := runOps { State.reset with mode := .awaitingKey 3, pc := 0x220 } [.setKey 2 true, .setKey 9 true, .step]; t.reg 3 = 2 ∧ t.pc = 0x222 ∧ t.mode = .running ∧ t.edge = none := by
  decide +kernel

/-- K-11. -/
theorem test_K_11_held_is_no_edge :
    let t := runOps (({ State.reset with mode := .awaitingKey 3, pc := 0x220 }).setKeyLevel 7 true) [.setKey 7 true, .step]
    t.edge = none ∧ t.mode = .awaitingKey 3 ∧ t.reg 3 = 0 ∧ t.pc = 0x220 := by
  decide +kernel

/-- K-14. -/
theorem test_K_14_no_edge_in_running :
    (State.reset.setKey 6 true).edge = none := by
  decide +kernel

/-- T-07. -/
theorem test_T_07_tick_in_halted :
    let t := ({ State.reset with mode := .halted .unknownOpcode (some 0) 0x200, dt := 2, st := 0 }).tickTimers; t.dt = 1 ∧ t.st = 0 := by
  decide +kernel

/-- R-03. -/
theorem test_R_03_load_while_waiting :
    let t := runOps { State.reset with mode := .awaitingKey 3, pc := 0x220 } [.load [0x12, 0x34]]; t.readByte 0x200 = 0x12 ∧ t.readByte 0x201 = 0x34 ∧ t.mode = .awaitingKey 3 ∧ t.pc = 0x220 := by
  decide +kernel

/-- R-04. -/
theorem test_R_04_reset :
    let t := ((((State.reset.writeByte 0x000 0x00).writeByte 0x300 0x99).setKeyLevel 1 true).raiseHalt .stackOverflow (some 0x2200)).resetPort; t.readByte 0x000 = 0xF0 ∧ t.readByte 0x300 = 0x99 ∧ t.keyDown 1 = true ∧ t.mode = .running ∧ t.pc = 0x200 := by
  decide +kernel

/-- The halt codes of R230's table. -/
theorem test_halt_codes :
    [HaltReason.unknownOpcode, .stackOverflow, .stackUnderflow, .addressOutOfRange, .keyIndexOutOfRange].map
      HaltReason.code = [0, 1, 2, 3, 4] := by decide

/-- R277: the font table at its digits' addresses, last byte of 0xF included. -/
theorem test_font_places :
    State.reset.readByte 0x000 = 0xF0 ∧ State.reset.readByte 0x006 = 0x60 ∧ State.reset.readByte 0x037 = 0xE0 ∧
    State.reset.readByte 0x04F = 0x80 ∧ State.reset.readByte 0x050 = 0 := by decide +kernel

/-! ## Witnesses: states and operands that meet the hypotheses of the statements, clause by clause -/

/-- A Running state whose next instruction is `LD VA, 0x05`. -/
def loading : State := at_ 0x200 0x6A05

/-- The engine waiting for a key for Vx. -/
def waiting (x : Nibble) : State := { State.reset with mode := .awaitingKey x, pc := 0x220 }

/-- At most one instruction is the next one. -/
theorem fetches_unique {s : State} {i j : Instr} (hi : Fetches s i) (hj : Fetches s j) : i = j := by
  obtain ⟨-, w, hw, hd⟩ := hi
  obtain ⟨-, w', hw', hd'⟩ := hj
  simp_all

/-- The next instruction of `loading`. -/
theorem loading_fetches : Fetches loading (.ldVxNn 0xA 0x05) := ⟨rfl, 0x6A05#16, by rfl, by decide⟩

/-- `loading` fetches no other instruction. -/
theorem loading_not_fetches (i : Instr) (h : i ≠ .ldVxNn 0xA 0x05) : ¬ Fetches loading i :=
  fun hi => h (fetches_unique hi loading_fetches)

/-- `loading` has a next state. -/
theorem loading_steps : ∃ t, step loading = .next t := ⟨_, rfl⟩

/-- `loading` meets the invariant. -/
theorem loading_inv : loading.Inv where
  pc_le := by decide
  i_le := by decide
  stack_le := by decide
  edge_awaiting := by decide
  mem_wf := by decide +kernel

theorem witness_EncodeOfDecodedIsTheWord : decode 0x82FE#16 = .instr (.shl 2 0xF) := by decide

theorem witness_DecoderFollowsOpcodeMap :
    (∃ r ∈ opcodeRows, r.Matches 0x5120#16) ∧ (∃ r ∈ opcodeRows, ¬ r.Matches 0x5120#16) ∧
    ∀ r ∈ opcodeRows, ¬ r.Matches 0x5121#16 := by decide

theorem witness_StepRunsDecodedInstruction :
    (loading.mode = .running ∧ loading.fetch = some 0x6A05#16 ∧ decode 0x6A05#16 = .instr (.ldVxNn 0xA 0x05)) ∧
    (at_ 0xFFF 0x5121).mode = .running ∧ (at_ 0xFFF 0x5121).fetch = some 0x5121#16 ∧
    decode 0x5121#16 = .unknown 0x5121#16 := by decide +kernel

theorem witness_FetchIsBigEndian :
    (let s := at_ 0xFFE 0x1234; s.pc.toNat ≤ 0xFFF ∧ s.addr (s.pc.toNat + 1) = some 0xFFF) ∧
    (let s := at_ 0xFFF 0x1234; s.pc.toNat ≤ 0xFFF ∧ s.addr (s.pc.toNat + 1) = some 0x000) ∧
    (let s := addrHalt (at_ 0xFFE 0x1234); s.pc.toNat ≤ 0xFFF ∧ s.addr (s.pc.toNat + 1) = some 0xFFF) := by decide +kernel

theorem witness_FetchAtTheLastAddress :
    (let s := at_ 0xFFF 0x1234; s.mode = .running ∧ s.pc = 0xFFF#16 ∧ s.cfg.addrOverflow = .wrap) ∧
    (let s := addrHalt (at_ 0xFFF 0x1234); s.mode = .running ∧ s.pc = 0xFFF#16 ∧ s.cfg.addrOverflow = .halt) := by
  decide +kernel

theorem witness_WaitWithoutEdgeChangesNothing :
    (waiting 0xF).mode = .awaitingKey 0xF ∧ (waiting 0xF).edge = none := by decide

theorem witness_OnlyResetLeavesHalted :
    (State.reset.raiseHalt .unknownOpcode none).mode.isHalted = true ∧
    HostOp.reset ∉ [HostOp.step, .tickTimers, .setKey 0xF true, .load [0x00]] := by decide

theorem witness_KeyWaitResolution :
    ((waiting 0xF).setEdge (some 0xF)).mode = .awaitingKey 0xF ∧ ((waiting 0xF).setEdge (some 0xF)).edge = some 0xF := by
  decide

theorem witness_HaltIsAllOrNothing :
    (State.reset.mode = .running ∧
      ∃ t, step State.reset = .next t ∧ t.mode = .halted .unknownOpcode (some 0x0000#16) 0x200#16) ∧
    ((addrHalt (at_ 0xFFF 0x1234)).mode = .running ∧
      ∃ t, step (addrHalt (at_ 0xFFF 0x1234)) = .next t ∧ t.mode = .halted .addressOutOfRange none 0xFFF#16) :=
  ⟨⟨rfl, _, rfl, rfl⟩, rfl, _, rfl, rfl⟩

/-- Each reason's condition at its boundary, and a state one short of it. -/
theorem witness_HaltReasonsAreExact :
    (State.reset.mode = .running ∧ ∃ t, exec (.call 0x300) State.reset = .next t) ∧
    HaltsWith (State.reset.setSp 16) (.call 0x300) .stackOverflow ∧
    HaltsWith State.reset .ret .stackUnderflow ∧
    HaltsWith (addrHalt (State.reset.setI 0xFFE)) (.ldBVx 3) .addressOutOfRange ∧
    HaltsWith (addrHalt (State.reset.setI 0xFFF)) (.ldMemVx 1) .addressOutOfRange ∧
    HaltsWith (addrHalt (State.reset.setI 0xFFF)) (.drw 0 1 2) .addressOutOfRange ∧
    HaltsWith (keyHalt (State.reset.setReg 1 0x10)) (.skp 1) .keyIndexOutOfRange ∧
    ¬ HaltsWith (State.reset.setSp 15) (.call 0x300) .stackOverflow ∧
    ¬ HaltsWith (addrHalt (State.reset.setI 0xFFF)) (.ldMemVx 0) .addressOutOfRange := by
  refine ⟨⟨rfl, _, rfl⟩, .inl ⟨rfl, rfl, _, rfl⟩, .inr (.inl ⟨rfl, rfl, rfl⟩),
    .inr (.inr (.inl ⟨rfl, rfl, .inl ⟨by decide, _, rfl⟩⟩)),
    .inr (.inr (.inl ⟨rfl, rfl, .inr (.inl ⟨1, by decide, .inl rfl⟩)⟩)),
    .inr (.inr (.inl ⟨rfl, rfl, .inr (.inr ⟨0, 1, 2, by decide, by decide, rfl⟩)⟩)),
    .inr (.inr (.inr ⟨rfl, rfl, 1, by decide, .inl rfl⟩)), ?_, ?_⟩
  · rintro (⟨-, h, -⟩ | ⟨h, -⟩ | ⟨h, -⟩ | ⟨h, -⟩)
    · exact absurd h (by decide)
    all_goals cases h
  · rintro (⟨h, -⟩ | ⟨h, -⟩ | ⟨-, -, ⟨-, _, h⟩ | ⟨x, hx, h | h⟩ | ⟨_, _, _, -, -, h⟩⟩ | ⟨h, -⟩)
    all_goals cases h
    exact absurd hx (by decide)

theorem witness_ResetPortValues : Memory.wf (loading.raiseHalt .stackOverflow none).cfg.font loading.mem :=
  loading_inv.mem_wf

theorem witness_LoadWritesTheRom :
    Memory.wf loading.cfg.font loading.mem ∧ (List.replicate 0xE00 (0x12 : Byte)).length ≤ 0xE00 :=
  ⟨loading_inv.mem_wf, by rw [List.length_replicate]⟩

theorem witness_OversizedLoadFails : (List.replicate 0xE01 (0x12 : Byte)).length > 0xE00 := by
  rw [List.length_replicate]; decide

theorem witness_SetKeyLatchesFirstEdge :
    ((waiting 3).mode.isAwaiting = true ∧ (waiting 3).edge = none ∧ (waiting 3).keyDown 0xF = false) ∧
    ¬ (((waiting 3).setEdge (some 2)).edge = none) ∧ ¬ (((waiting 3).setKeyLevel 7 true).keyDown 7 = false) ∧
    State.reset.mode.isAwaiting = false := by decide

theorem witness_PressAndReleaseResolveTheWait :
    (waiting 0xF).mode = .awaitingKey 0xF ∧ (waiting 0xF).edge = none ∧ (waiting 0xF).keyDown 0 = false := by decide

theorem witness_StepKeepsInvariant : loading.Inv ∧ ∃ t, step loading = .next t := ⟨loading_inv, loading_steps⟩

theorem witness_EveryRunMeetsInvariant : loading.Inv := loading_inv

/-- Entry 3 is the first one at or above SP = 3. -/
theorem witness_StackAboveSpIsUnobservable :
    SameBelowSp (loading.setSp 3) ((loading.setSp 3).setStackEntry 3 0x123) ∧
    (loading.setSp 3).stack ≠ ((loading.setSp 3).setStackEntry 3 0x123).stack ∧
    ∃ s', step (loading.setSp 3) = .next s' :=
  ⟨⟨rfl, by decide⟩, by decide, _, rfl⟩

theorem witness_FrameCoversTheState :
    Memory.wf loading.cfg.font loading.mem ∧ ChangesOnly loading loading [] :=
  ⟨loading_inv.mem_wf, fun p _ => by cases p <;> rfl⟩

theorem witness_OnlyCallAndReturnTouchTheStack :
    (∃ t, step loading = .next t) ∧ (∀ nnn, ¬ Fetches loading (.call nnn)) ∧ ¬ Fetches loading .ret :=
  ⟨loading_steps, fun _ => loading_not_fetches _ nofun, loading_not_fetches _ nofun⟩

/-- The other clause: a RET is fetched, so only the entries are left alone. -/
theorem witness_OnlyCallAndReturnTouchTheStack_ret :
    Fetches (at_ 0x200 0x00EE) .ret ∧ (∃ t, step (at_ 0x200 0x00EE) = .next t) :=
  ⟨⟨rfl, 0x00EE#16, by rfl, by decide⟩, _, rfl⟩

theorem witness_OnlyClearAndDrawWriteTheDisplay :
    (∃ t, step loading = .next t) ∧ ¬ Fetches loading .cls ∧ (∀ x y n, ¬ Fetches loading (.drw x y n)) ∧
    HostOp.load [0x12] ≠ .step ∧ HostOp.load [0x12] ≠ .reset :=
  ⟨loading_steps, loading_not_fetches _ nofun, fun _ _ _ => loading_not_fetches _ nofun, nofun, nofun⟩

theorem witness_OnlyThreeInstructionsWriteI :
    (∃ t, step loading = .next t) ∧ (∀ nnn, ¬ Fetches loading (.ldINnn nnn)) ∧
    (∀ x, ¬ Fetches loading (.addIVx x)) ∧ (∀ x, ¬ Fetches loading (.ldFVx x)) :=
  ⟨loading_steps, fun _ => loading_not_fetches _ nofun, fun _ => loading_not_fetches _ nofun,
    fun _ => loading_not_fetches _ nofun⟩

theorem witness_StepsDoNotTick :
    (∃ t, step loading = .next t) ∧ (∀ x, ¬ Fetches loading (.ldDtVx x)) ∧ (∀ x, ¬ Fetches loading (.ldStVx x)) :=
  ⟨loading_steps, fun _ => loading_not_fetches _ nofun, fun _ => loading_not_fetches _ nofun⟩

/-- VE is the last register that is not VF; FX1E under `P_FX1E_VF` = unchanged. -/
theorem witness_VfIsWrittenOnlyByDesignatedInstructions :
    ((∃ t, exec (.ldVxMem 0xE) loading = .next t) ∧ ¬ MayWriteVf loading (.ldVxMem 0xE)) ∧
    (∃ t, exec (.addIVx 0xF) (fx1e .unchanged loading) = .next t) ∧
    ¬ MayWriteVf (fx1e .unchanged loading) (.addIVx 0xF) :=
  ⟨⟨⟨_, rfl⟩, by simp [MayWriteVf, vf]⟩, ⟨_, rfl⟩, by simp [MayWriteVf, fx1e]⟩

theorem witness_OnlyTwoInstructionsWriteMemory :
    (∃ t, step loading = .next t) ∧ (∀ x, ¬ Fetches loading (.ldBVx x)) ∧ (∀ x, ¬ Fetches loading (.ldMemVx x)) :=
  ⟨loading_steps, fun _ => loading_not_fetches _ nofun, fun _ => loading_not_fetches _ nofun⟩

theorem witness_JumpSetsPc : loading.pc.toNat = (0x200#12 : Addr).toNat := by decide

theorem witness_CallPushesTheReturnAddress :
    (loading.setSp 15).sp.val < 16 ∧ (loading.setSp 16).sp.val = 16 := by decide

theorem witness_ReturnPopsTheStack :
    0 < (loading.setSp 1).sp.val ∧ 0 < (loading.setSp 16).sp.val ∧ (loading.setSp 0).sp.val = 0 ∧
    (((loading.setSp 16).setStackEntry 15 0xFFF).stack[15]).toNat ≤ 0xFFF := by decide +kernel

theorem witness_CallThenReturnComesBack : (loading.setSp 15).sp.val < 16 := by decide

/-- The destinations of AddWritesTheCarry, SubtractWritesNoBorrow and ShiftsWriteTheBitShiftedOut other than VF. -/
theorem witness_AluDestination : (0xE : Nibble) ≠ vf ∧ (0x0 : Nibble) ≠ vf := by decide

/-- Both values of the parameter; sums 0xFFF and 0x1000. -/
theorem witness_AddToIndexWraps :
    (fx1e .unchanged loading).cfg.fx1eVf = .unchanged ∧ (fx1e .overflow loading).cfg.fx1eVf = .overflow ∧
    (let s := fx1e .overflow ((loading.setI 0xFF0).setReg 1 0x0F); s.i.toNat + (s.reg 1).toNat = 0xFFF) ∧
    (let s := fx1e .overflow ((loading.setI 0xFF0).setReg 1 0x10); s.i.toNat + (s.reg 1).toNat > 0xFFF) := by decide +kernel

/-- The last range that does not pass 0xFFF under halt, and one that wraps. -/
theorem witness_DecimalDigitsAreStored :
    (Memory.wf loading.cfg.font loading.mem ∧ IndexInRange (addrHalt (loading.setI 0xFFD)) 3) ∧
    IndexInRange (loading.setI 0xFFF) 3 :=
  ⟨⟨loading_inv.mem_wf, by decide⟩, by decide⟩

/-- For RegistersAreStored, RegistersAreLoaded and StoreThenLoadRestoresTheRegisters. -/
theorem witness_RegistersAreStored :
    (Memory.wf loading.cfg.font loading.mem ∧
      IndexInRange (addrHalt (loading.setI 0xFF0)) ((0xF : Nibble).toNat + 1)) ∧
    IndexInRange (addrHalt (loading.setI 0xFFF)) ((0x0 : Nibble).toNat + 1) ∧
    IndexInRange (loading.setI 0xFFF) ((0xF : Nibble).toNat + 1) :=
  ⟨⟨loading_inv.mem_wf, by decide⟩, by decide, by decide⟩

theorem witness_IndexedAccessPastTheEndHalts :
    (addrHalt loading).cfg.addrOverflow = .halt ∧ (addrHalt (loading.setI 0xFFE)).i.toNat + 2 > 0xFFF ∧
    (addrHalt (loading.setI 0xFFF)).i.toNat + (0x1 : Nibble).toNat > 0xFFF ∧
    1 ≤ (0x2 : Nibble).toNat ∧ (addrHalt (loading.setI 0xFFF)).i.toNat + (0x2 : Nibble).toNat - 1 > 0xFFF := by decide

/-- Digit 0 drawn at (63, 0): its rows start 0xF0 and 0x90. The pixel that the wrapped second column covers, and one in
the gap of the second row. -/
theorem witness_DrawFlipsTheCoveredPixels :
    let s := State.reset.setReg 0 0x3F
    IndexInRange s (0x5 : Nibble).toNat ∧ IndexInRange (addrHalt s) (0x0 : Nibble).toNat ∧
    SpriteCovers s 0 1 5 63 0 ∧ SpriteCovers s 0 1 5 0 0 ∧ ¬ SpriteCovers s 0 1 5 0 1 ∧
    (∃ c r, SpriteCovers (s.setDisp (Display.put blankDisplay (0, 0) true)) 0 1 5 c r ∧
      (s.setDisp (Display.put blankDisplay (0, 0) true)).pix c r = true) ∧
    (∀ c r, SpriteCovers s 0 1 5 c r → s.pix c r = false) := by
  refine ⟨by decide, by decide, ⟨0, 0, by decide, by decide, by decide +kernel, by decide, by decide⟩,
    ⟨0, 1, by decide, by decide, by decide +kernel, by decide, by decide⟩, ?_,
    ⟨0, 0, ⟨0, 1, by decide, by decide, by decide +kernel, by decide, by decide⟩, by decide +kernel⟩, ?_⟩
  · rintro ⟨row, col, hr, hc, hb, h1, h2⟩
    have key : ∀ row < 5, ∀ col < 8,
        ((State.reset.setReg 0 0x3F).readByte (indexAddr (State.reset.setReg 0 0x3F) row)).getLsbD (7 - col) = true →
        ¬ (0 = (0x3F + col) % 64 ∧ 1 = (0 + row) % 32) := by decide +kernel
    exact key row hr col hc hb ⟨h1, h2⟩
  · intro c r _
    exact (by decide +kernel : ∀ (c : Fin 64) (r : Fin 32), (State.reset.setReg 0 0x3F).pix c r = false) c r

theorem witness_DrawingTwiceErases :
    (0xE : Nibble) ≠ vf ∧ (0x0 : Nibble) ≠ vf ∧ IndexInRange (addrHalt (State.reset.setI 0xFF1)) (0xF : Nibble).toNat ∧
    (addrHalt (State.reset.setI 0xFF1)).disp = blankDisplay := ⟨by decide, by decide, by decide, rfl⟩

/-- The index 0xF and 0x10, under each rule. -/
theorem witness_KeySkipsFollowTheKeyLevel :
    (let s := loading.setReg 1 0x10; (0x0 : Nibble).toNat = (s.reg 1).toNat % 16 ∧ s.cfg.keyIndex = .lowNibble) ∧
    (let s := keyHalt (loading.setReg 1 0x0F); (0xF : Nibble).toNat = (s.reg 1).toNat % 16 ∧ (s.reg 1).toNat ≤ 0xF) ∧
    (let s := keyHalt (loading.setReg 1 0x10);
      (0x0 : Nibble).toNat = (s.reg 1).toNat % 16 ∧ s.cfg.keyIndex = .halt ∧ (s.reg 1).toNat > 0xF) := by decide +kernel

end Sys2Proof.Tests
end

section
/-! What an instruction and a step can write: one effect per instruction, and the fields each effect leaves. -/

namespace Sys2Proof.Machine

/-- 10_state.md, R93: what an instruction can make of the state `s`. A constructor names its instruction where it writes
a field that is reserved to it. The values written are open where no rule over all steps needs them; a store's
addresses, the entry that CALL pushes and SP are not. -/
inductive Effect (s : State) : Instr → State → Prop
  | halt (i : Instr) (r : HaltReason) (w : Option Word) : Effect s i (s.raiseHalt r w)
  | jump (i : Instr) (a : Nat) : Effect s i (s.setPc a)
  | setReg (i : Instr) (x : Nibble) (y : Byte) : Effect s i (s.setReg x y).advance
  | setRegAndFlag (i : Instr) (x : Nibble) (y f : Byte) : Effect s i ((s.setReg x y).setFlag f).advance
  | loadRegs (i : Instr) (ys : List Byte) : Effect s i (s.loadRegs 0 ys).advance
  | rnd (x : Nibble) (nn y : Byte) : Effect s (.rnd x nn) ((s.setDraws (s.draws + 1)).setReg x y).advance
  | cls : Effect s .cls (s.setDisp blankDisplay).advance
  | drw (x y n : Nibble) (d : Display) (f : Byte) : Effect s (.drw x y n) ((s.setDisp d).setFlag f).advance
  | ldINnn (nnn : Addr) : Effect s (.ldINnn nnn) (s.setI nnn.toNat).advance
  | addIVx (x : Nibble) (a : Nat) (f : Byte) : Effect s (.addIVx x) ((s.setI a).setFlag f).advance
  | ldFVx (x : Nibble) (a : Nat) : Effect s (.ldFVx x) (s.setI a).advance
  | ldBVx (x : Nibble) (ws : List (Nat × Byte)) (hws : ∀ c ∈ ws, c.1 < memSize) :
      Effect s (.ldBVx x) (s.writeCells ws).advance
  | ldMemVx (x : Nibble) (ws : List (Nat × Byte)) (hws : ∀ c ∈ ws, c.1 < memSize) :
      Effect s (.ldMemVx x) (s.writeCells ws).advance
  | call (nnn : Addr) (h : s.sp.val < 16) :
      Effect s (.call nnn) (((s.setStackEntry ⟨s.sp.val, h⟩ (low12 (s.pc.toNat + 2))).setSp
        ⟨s.sp.val + 1, by omega⟩).setPc nnn.toNat)
  | ret (a : Nat) : Effect s .ret ((s.setSp ⟨s.sp.val - 1, by omega⟩).setPc a)
  | ldVxK (x : Nibble) : Effect s (.ldVxK x) ((s.setMode (.awaitingKey x)).setEdge none)
  | ldDtVx (x : Nibble) : Effect s (.ldDtVx x) (s.setDt (s.reg x)).advance
  | ldStVx (x : Nibble) : Effect s (.ldStVx x) (s.setSt (s.reg x)).advance

/-- R163, R164: a store at I halts, or writes cells of the address space. -/
theorem State.storeAtI_next {s t : State} {i : Instr} {ys : List Byte} (h : s.storeAtI i ys = .next t) :
    t = s.raiseHalt .addressOutOfRange (some (encode i)) ∨
      ∃ ws : List (Nat × Byte), (∀ c ∈ ws, c.1 < memSize) ∧ t = (s.writeCells ws).advance := by
  rcases s.storeAtI_cases i ys with ⟨-, he⟩ | ⟨-, he⟩ <;> cases he.symm.trans h
  · exact .inl rfl
  · refine .inr ⟨_, fun c hc => ?_, rfl⟩
    obtain ⟨k, -, hk⟩ := List.mem_map.1 (List.of_mem_zip (show (c.1, c.2) ∈ _ from hc)).1
    exact hk ▸ Nat.mod_lt _ (by decide)

section
variable {s : State}

/-- R112: CALL below a full stack. -/
theorem execCall_of_lt (nnn : Addr) (h : s.sp.val < 16) :
    execCall nnn s = .next (((s.setStackEntry ⟨s.sp.val, h⟩ (low12 (s.pc.toNat + 2))).setSp
      ⟨s.sp.val + 1, by omega⟩).setPc nnn.toNat) := by
  simp only [execCall, State.push, dif_pos h]

/-- R112: CALL on a full stack. -/
theorem execCall_of_not_lt (nnn : Addr) (h : ¬ s.sp.val < 16) :
    execCall nnn s = .next (s.raiseHalt .stackOverflow (some (encode (.call nnn)))) := by
  simp only [execCall, State.push, dif_neg h]

/-- R110: RET on an empty stack. -/
theorem execRet_of_eq_zero (h : s.sp.val = 0) :
    execRet s = .next (s.raiseHalt .stackUnderflow (some (encode .ret))) := by
  simp only [execRet, State.pop, dif_pos h]

/-- R110: RET above an empty stack. -/
theorem execRet_of_ne_zero (h : ¬ s.sp.val = 0) :
    execRet s = .next ((s.setSp ⟨s.sp.val - 1, by omega⟩).setPc (s.stack[s.sp.val - 1]'(by omega)).toNat) := by
  simp only [execRet, State.pop, dif_neg h]

end

/-- Every instruction has one of the effects. -/
theorem exec_effect {i : Instr} {s t : State} (h : exec i s = .next t) : Effect s i t := by
  cases i with
  | cls => cases h; exact .cls
  | ret =>
    by_cases h0 : s.sp.val = 0
    · cases (execRet_of_eq_zero h0).symm.trans h; exact .halt _ _ _
    · cases (execRet_of_ne_zero h0).symm.trans h; exact .ret _
  | call nnn =>
    by_cases hlt : s.sp.val < 16
    · cases (execCall_of_lt nnn hlt).symm.trans h; exact .call nnn hlt
    · cases (execCall_of_not_lt nnn hlt).symm.trans h; exact .halt _ _ _
  | jp | jpV0 | seVxNn | sneVxNn | seVxVy | sneVxVy => cases h; exact .jump _ _
  | ldVxNn | addVxNn | ldVxVy | or | and | xor | ldVxDt => cases h; exact .setReg _ _ _
  | addVxVy | sub | shr | subn | shl => cases h; exact .setRegAndFlag _ _ _ _
  | rnd x nn => cases h; exact .rnd x nn _
  | drw x y n =>
    rcases execDrw_cases x y n s with ⟨-, he⟩ | ⟨-, he⟩ <;> cases he.symm.trans h
    · exact .halt _ _ _
    · exact .drw x y n _ _
  | skp x =>
    rcases execSkp_cases x s with ⟨-, he⟩ | ⟨k, -, he⟩ <;> cases he.symm.trans h
    · exact .halt _ _ _
    · exact .jump _ _
  | sknp x =>
    rcases execSknp_cases x s with ⟨-, he⟩ | ⟨k, -, he⟩ <;> cases he.symm.trans h
    · exact .halt _ _ _
    · exact .jump _ _
  | ldINnn nnn => cases h; exact .ldINnn nnn
  | addIVx x => cases h; exact .addIVx x _ _
  | ldFVx x => cases h; exact .ldFVx x _
  | ldBVx x =>
    obtain rfl | ⟨ws, hws, rfl⟩ := State.storeAtI_next h
    · exact .halt _ _ _
    · exact .ldBVx x ws hws
  | ldMemVx x =>
    obtain rfl | ⟨ws, hws, rfl⟩ := State.storeAtI_next h
    · exact .halt _ _ _
    · exact .ldMemVx x ws hws
  | ldVxMem x =>
    rcases execLdVxMem_cases x s with ⟨-, he⟩ | ⟨-, he⟩ <;> cases he.symm.trans h
    · exact .halt _ _ _
    · exact .loadRegs _ _
  | ldVxK x => cases h; exact .ldVxK x
  | ldDtVx x => cases h; exact .ldDtVx x
  | ldStVx x => cases h; exact .ldStVx x

/-! ### What an effect leaves -/

section
variable {s t : State} {i : Instr}

/-- R25: only CALL writes a stack entry. -/
theorem Effect.stack_eq (h : Effect s i t) (hcall : ∀ nnn, i ≠ .call nnn) : t.stack = s.stack := by
  cases h
  case call nnn _ => exact absurd rfl (hcall nnn)
  all_goals simp

/-- R25: only CALL and RET write SP. -/
theorem Effect.sp_eq (h : Effect s i t) (hcall : ∀ nnn, i ≠ .call nnn) (hret : i ≠ .ret) : t.sp = s.sp := by
  cases h
  case call nnn _ => exact absurd rfl (hcall nnn)
  case ret => exact absurd rfl hret
  all_goals simp

/-- R26: only FX15 writes DT. -/
theorem Effect.dt_eq (h : Effect s i t) (hdt : ∀ x, i ≠ .ldDtVx x) : t.dt = s.dt := by
  cases h
  case ldDtVx x => exact absurd rfl (hdt x)
  all_goals simp

/-- R27: only FX18 writes ST. -/
theorem Effect.st_eq (h : Effect s i t) (hst : ∀ x, i ≠ .ldStVx x) : t.st = s.st := by
  cases h
  case ldStVx x => exact absurd rfl (hst x)
  all_goals simp

/-- R30: no instruction writes a key level. -/
theorem Effect.key_eq (h : Effect s i t) : t.key = s.key := by cases h <;> simp

/-- R6: no instruction writes a parameter. -/
theorem Effect.cfg_eq (h : Effect s i t) : t.cfg = s.cfg := by cases h <;> simp

/-- R50: only FX33 and FX55 write memory. -/
theorem Effect.mem_eq (h : Effect s i t) (hb : ∀ x, i ≠ .ldBVx x) (hm : ∀ x, i ≠ .ldMemVx x) : t.mem = s.mem := by
  cases h
  case ldBVx x _ _ => exact absurd rfl (hb x)
  case ldMemVx x _ _ => exact absurd rfl (hm x)
  all_goals simp

/-! ### What an effect keeps of the invariant -/

/-- R22: PC stays in 12 bits: an effect leaves it or reduces what it writes. -/
theorem Effect.pc_le (h : Effect s i t) (hpc : s.pc.toNat ≤ 0xFFF) : t.pc.toNat ≤ 0xFFF := by
  cases h
  case halt | ldVxK => exact hpc
  all_goals (simp; omega)

/-- R24: I stays in 12 bits. -/
theorem Effect.i_le (h : Effect s i t) (hi : s.i.toNat ≤ 0xFFF) : t.i.toNat ≤ 0xFFF := by
  cases h
  case ldINnn | addIVx | ldFVx => simp; omega
  all_goals simpa using hi

/-- R25, R112: the occupied entries stay in 12 bits: CALL occupies one more, with a reduced return address, and RET one
less. -/
theorem Effect.stack_le (h : Effect s i t)
    (hst : ∀ k : Fin 16, k.val < s.sp.val → (s.stack[k.val]).toNat ≤ 0xFFF) :
    ∀ k : Fin 16, k.val < t.sp.val → (t.stack[k.val]).toNat ≤ 0xFFF := by
  cases h
  case call nnn hlt =>
    intro k hk
    simp only [State.setPc_sp, State.setSp_sp] at hk
    simp only [State.setPc_stack, State.setSp_stack, State.setStackEntry_stack, Vector.getElem_set]
    split
    · rw [low12_toNat]; omega
    · exact hst k (by omega)
  case ret =>
    intro k hk
    simp only [State.setPc_sp, State.setSp_sp] at hk
    exact hst k (by omega)
  all_goals simpa using hst

/-- R32: no instruction latches an edge. -/
theorem Effect.edge_eq_none (h : Effect s i t) (he : s.edge = none) : t.edge = none := by
  cases h <;> simp [he]

/-- Memory stays canonical: a store writes in the address space. -/
theorem Effect.mem_wf (h : Effect s i t) (hm : Memory.wf s.cfg.font s.mem) : Memory.wf t.cfg.font t.mem := by
  cases h
  case ldBVx _ ws hws => simpa using s.writeCells_wf ws hm hws
  case ldMemVx _ ws hws => simpa using s.writeCells_wf ws hm hws
  all_goals simpa using hm

/-- R34: an effect of an instruction, which runs with no edge latched, keeps the invariant. -/
theorem Effect.inv (h : Effect s i t) (hs : s.Inv) (he : s.edge = none) : t.Inv where
  pc_le := h.pc_le hs.pc_le
  i_le := h.i_le hs.i_le
  stack_le := h.stack_le hs.stack_le
  edge_awaiting ht := absurd (h.edge_eq_none he) ht
  mem_wf := h.mem_wf hs.mem_wf

end

/-! ### What a step can do -/

section
variable {s : State}

/-- R57: in Running, a fetch past the address space halts. -/
theorem step_of_fetch_eq_none (hm : s.mode = .running) (hf : s.fetch = none) :
    step s = .next (s.raiseHalt .addressOutOfRange none) := by
  simp only [step, stepByMode, executeOne, hm, hf]

/-- R100: in Running, an Unknown word halts. -/
theorem step_of_unknown {w : Word} (hm : s.mode = .running) (hf : s.fetch = some w) (hd : decode w = .unknown w) :
    step s = .next (s.raiseHalt .unknownOpcode (some w)) := by
  simp only [step, stepByMode, executeOne, hm, hf, hd]

/-- R91: a step runs the fetched instruction. -/
theorem step_of_fetches {i : Instr} (h : Fetches s i) : step s = exec i s := by
  obtain ⟨hm, w, hf, hd⟩ := h
  simp only [step, stepByMode, executeOne, hm, hf, hd]

/-- R97, R98: a step in AwaitingKey is a step of the key wait. -/
theorem step_of_awaitingKey {x : Nibble} (hm : s.mode = .awaitingKey x) : step s = .next (s.continueKeyWait x) := by
  simp only [step, stepByMode, hm]

/-- R96: a step in Halted does nothing. -/
theorem step_of_isHalted (hm : s.mode.isHalted = true) : step s = .next s := by
  unfold step stepByMode
  split
  next hr => simp [hr, Mode.isHalted] at hm
  next hr => simp [hr, Mode.isHalted] at hm
  next => rfl

end

/-- R97, R98: a step of the key wait writes only a register, PC, the mode and the latch. -/
theorem State.continueKeyWait_eq (s : State) (x : Nibble) :
    s.continueKeyWait x = { s with
      v := (s.continueKeyWait x).v
      pc := (s.continueKeyWait x).pc
      mode := (s.continueKeyWait x).mode
      edge := (s.continueKeyWait x).edge } := by
  obtain ⟨-, he⟩ | ⟨k, -, he⟩ := s.continueKeyWait_cases x
  · rw [he]
  · rw [he]; rfl

/-! The fields that `continueKeyWait` leaves, one by one. -/

section
variable (s : State) (x : Nibble)

@[simp] theorem State.continueKeyWait_mem : (s.continueKeyWait x).mem = s.mem := by
  rw [State.continueKeyWait_eq]
@[simp] theorem State.continueKeyWait_i : (s.continueKeyWait x).i = s.i := by
  rw [State.continueKeyWait_eq]
@[simp] theorem State.continueKeyWait_sp : (s.continueKeyWait x).sp = s.sp := by
  rw [State.continueKeyWait_eq]
@[simp] theorem State.continueKeyWait_stack : (s.continueKeyWait x).stack = s.stack := by
  rw [State.continueKeyWait_eq]
@[simp] theorem State.continueKeyWait_dt : (s.continueKeyWait x).dt = s.dt := by
  rw [State.continueKeyWait_eq]
@[simp] theorem State.continueKeyWait_st : (s.continueKeyWait x).st = s.st := by
  rw [State.continueKeyWait_eq]
@[simp] theorem State.continueKeyWait_disp : (s.continueKeyWait x).disp = s.disp := by
  rw [State.continueKeyWait_eq]
@[simp] theorem State.continueKeyWait_key : (s.continueKeyWait x).key = s.key := by
  rw [State.continueKeyWait_eq]
@[simp] theorem State.continueKeyWait_cfg : (s.continueKeyWait x).cfg = s.cfg := by
  rw [State.continueKeyWait_eq]
@[simp] theorem State.continueKeyWait_draws : (s.continueKeyWait x).draws = s.draws := by
  rw [State.continueKeyWait_eq]

end

/-- R90, R91: what holds of a halt, of a step of the key wait, of the state itself and of every effect of the fetched
instruction holds after a step. -/
theorem step_elim {P : State → Prop} {s t : State} (h : step s = .next t)
    (halt : ∀ r w, s.mode = .running → P (s.raiseHalt r w))
    (wait : ∀ x, s.mode = .awaitingKey x → P (s.continueKeyWait x))
    (idle : P s) (effect : ∀ i, Fetches s i → Effect s i t → P t) : P t := by
  rcases step_cases s t h with ⟨hm, -, rfl⟩ | ⟨w, hm, -, -, rfl⟩ | ⟨w, i, hm, hf, hd, he⟩ | ⟨x, hm, rfl⟩ | ⟨-, rfl⟩
  · exact halt _ _ hm
  · exact halt _ _ hm
  · exact effect i ⟨hm, w, hf, hd⟩ (exec_effect he)
  · exact wait x hm
  · exact idle

/-- What no halt and no key wait writes, and no effect of the fetched instruction, a step leaves. -/
theorem step_leaves {α : Type} (f : State → α) {s t : State} (h : step s = .next t)
    (halt : ∀ r w, f (s.raiseHalt r w) = f s) (wait : ∀ x, f (s.continueKeyWait x) = f s)
    (effect : ∀ i, Fetches s i → Effect s i t → f t = f s) : f t = f s :=
  step_elim (P := fun u => f u = f s) h (fun r w _ => halt r w) (fun x _ => wait x) rfl effect

end Sys2Proof.Machine
end

section
/-! The invariant of 10_state.md R34 over steps and host operations, and which instructions write the call stack, the
timers and memory. -/

namespace Sys2Proof.Machine

/-! ### The invariant of R34 -/

/-- Settles O23: PC is 0x200, and I, SP, the latch and memory are empty. -/
theorem constructionMeetsInvariant : Obligations.ConstructionMeetsInvariant where
  pc_le := by decide
  i_le := by decide
  stack_le := by decide
  edge_awaiting := by decide
  mem_wf := by decide

/-- R95: a halt from Running, where no edge is latched, keeps the invariant. -/
theorem State.Inv.raiseHalt {s : State} (hs : s.Inv) (he : s.edge = none) (r : HaltReason) (w : Option Word) :
    (s.raiseHalt r w).Inv where
  pc_le := hs.pc_le
  i_le := hs.i_le
  stack_le := hs.stack_le
  edge_awaiting h := absurd he h
  mem_wf := hs.mem_wf

/-- R34: no edge is latched outside AwaitingKey. -/
theorem State.Inv.edge_eq_none {s : State} (hs : s.Inv) (hm : s.mode.isAwaiting = false) : s.edge = none := by
  by_contra he
  simp [hs.edge_awaiting he] at hm

/-- R97, R98: a step of the key wait keeps the invariant: it changes nothing, or it empties the latch and advances. -/
theorem State.Inv.continueKeyWait {s : State} (hs : s.Inv) (x : Nibble) : (s.continueKeyWait x).Inv := by
  obtain ⟨-, he⟩ | ⟨k, -, he⟩ := s.continueKeyWait_cases x <;> rw [he]
  · exact hs
  · exact {
      pc_le := by simp; omega
      i_le := hs.i_le
      stack_le := hs.stack_le
      edge_awaiting := fun h => absurd rfl h
      mem_wf := hs.mem_wf }

/-- Settles O24: a step is a halt, a step of the key wait, nothing, or an effect of an instruction, and each keeps the
invariant. -/
theorem stepKeepsInvariant : Obligations.StepKeepsInvariant := by
  intro s t hs h
  have hrun (hm : s.mode = .running) : s.edge = none := hs.edge_eq_none (by rw [hm]; rfl)
  refine step_elim h ?_ ?_ hs ?_
  · exact fun r w hm => hs.raiseHalt (hrun hm) r w
  · exact fun x _ => hs.continueKeyWait x
  · exact fun i hf he => he.inv hs (hrun hf.1)

/-- R240: a tick keeps the invariant, which does not speak of the timers. -/
theorem State.Inv.tickTimers {s : State} (hs : s.Inv) : s.tickTimers.Inv :=
  ⟨hs.pc_le, hs.i_le, hs.stack_le, hs.edge_awaiting, hs.mem_wf⟩

/-- R242: an edge is taken only in AwaitingKey. -/
theorem State.isAwaiting_of_takesEdge {s : State} {code : Nibble} {pressed : Bool}
    (h : s.takesEdge code pressed = true) : s.mode.isAwaiting = true := by
  unfold State.takesEdge at h
  split at h
  next hm _ => rw [hm]; rfl
  next => cases h

/-- R241, R242: `setKey` keeps the invariant: it latches an edge only in AwaitingKey. -/
theorem State.Inv.setKey {s : State} (hs : s.Inv) (code : Nibble) (pressed : Bool) : (s.setKey code pressed).Inv where
  pc_le := hs.pc_le
  i_le := hs.i_le
  stack_le := hs.stack_le
  edge_awaiting h := by
    by_cases ht : s.takesEdge code pressed = true
    · exact State.isAwaiting_of_takesEdge (s := s) ht
    · exact hs.edge_awaiting (by simpa [State.setKey, ht] using h)
  mem_wf := hs.mem_wf

/-- R276: the font is 80 bytes. -/
@[simp] theorem fontBytes_length (font : Font) : (fontBytes font).length = 80 := by
  simp [fontBytes, List.length_flatMap]

/-- Bytes written in the address space keep the invariant. -/
theorem State.Inv.writeBytesAt {s : State} (hs : s.Inv) (a : Nat) (ys : List Byte) (ha : a + ys.length ≤ memSize) :
    (s.writeBytesAt a ys).Inv where
  pc_le := by simpa using hs.pc_le
  i_le := by simpa using hs.i_le
  stack_le := by simpa using hs.stack_le
  edge_awaiting := by simpa using hs.edge_awaiting
  mem_wf := by simpa using s.writeBytesAt_wf a ys hs.mem_wf ha

/-- R271: `reset()` keeps the invariant: the font lies in the address space, and the rest is as at construction. -/
theorem State.Inv.resetPort {s : State} (hs : s.Inv) : s.resetPort.Inv where
  pc_le := by simp [State.resetPort]
  i_le := by simp [State.resetPort]
  stack_le k hk := absurd hk (Nat.not_lt_zero _)
  edge_awaiting h := absurd rfl h
  mem_wf := (hs.writeBytesAt 0 (fontBytes s.cfg.font) (by simp [memSize])).mem_wf

/-- R273, R274: `load` keeps the invariant: a ROM that is not refused ends within the address space. -/
theorem State.Inv.load {s t : State} (hs : s.Inv) {rom : List Byte} (h : s.load rom = .ok t) : t.Inv := by
  unfold State.load at h
  split at h
  next hlen =>
    cases h
    exact hs.writeBytesAt 0x200 rom (by simp only [maxRom, memSize] at *; omega)
  next => cases h

/-- R34: every host operation keeps the invariant. -/
theorem State.Inv.apply {s : State} (hs : s.Inv) (op : HostOp) : (HostOp.apply s op).Inv := by
  cases op with
  | step =>
    simp only [HostOp.apply]
    split
    next t h => exact stepKeepsInvariant s t hs h
    all_goals exact hs
  | tickTimers => exact hs.tickTimers
  | setKey code pressed => exact hs.setKey code pressed
  | reset => exact hs.resetPort
  | load rom =>
    simp only [HostOp.apply]
    split
    next t h => exact hs.load h
    next => exact hs

/-- R283: what every host operation keeps, every run keeps. -/
theorem runOps_keeps {P : State → Prop} (hop : ∀ s op, P s → P (HostOp.apply s op)) (ops : List HostOp) (s : State)
    (hs : P s) : P (runOps s ops) := by
  induction ops generalizing s with
  | nil => exact hs
  | cons op ops ih => exact ih (HostOp.apply s op) (hop s op hs)

/-- Settles O25, by induction on the host operations from construction. -/
theorem everyRunMeetsInvariant : Obligations.EveryRunMeetsInvariant :=
  ⟨fun _ op hs => hs.apply op,
    fun ops => runOps_keeps (fun _ op hs => hs.apply op) ops _ constructionMeetsInvariant⟩

/-! ### Who writes the stack, the timers and memory -/

/-- Settles O28: among the effects of instructions only CALL's writes an entry, and only CALL's and RET's write SP. -/
theorem onlyCallAndReturnTouchTheStack : Obligations.OnlyCallAndReturnTouchTheStack := by
  intro s t h hcall
  have hne {i : Instr} (hf : Fetches s i) : ∀ nnn, i ≠ .call nnn := fun nnn hi => hcall nnn (hi ▸ hf)
  refine ⟨?_, fun hret => ?_⟩
  · exact step_leaves State.stack h (by simp) (by simp) fun i hf he => he.stack_eq (hne hf)
  · exact step_leaves State.sp h (by simp) (by simp) fun i hf he => he.sp_eq (hne hf) fun hi => hret (hi ▸ hf)

/-- Settles O31: among the effects of instructions only FX15's writes DT, and only FX18's writes ST. -/
theorem stepsDoNotTick : Obligations.StepsDoNotTick := by
  refine fun s t h => ⟨fun hdt => ?_, fun hst => ?_⟩
  · exact step_leaves State.dt h (by simp) (by simp) fun i hf he => he.dt_eq fun x hi => hdt x (hi ▸ hf)
  · exact step_leaves State.st h (by simp) (by simp) fun i hf he => he.st_eq fun x hi => hst x (hi ▸ hf)

/-- Settles O33: among the effects of instructions only FX33's and FX55's write memory, and none writes a key level or
a parameter. -/
theorem onlyTwoInstructionsWriteMemory : Obligations.OnlyTwoInstructionsWriteMemory := by
  intro s t h
  have hcfg : t.cfg = s.cfg := step_leaves State.cfg h (by simp) (by simp) fun _ _ he => he.cfg_eq
  refine ⟨?_, hcfg, fun hb hm a => ?_⟩
  · exact step_leaves State.key h (by simp) (by simp) fun _ _ he => he.key_eq
  · have hmem : t.mem = s.mem := step_leaves State.mem h (by simp) (by simp) fun i hf he =>
      he.mem_eq (fun x hi => hb x (hi ▸ hf)) fun x hi => hm x (hi ▸ hf)
    simp only [State.readByte, hcfg, hmem]

end Sys2Proof.Machine
end

section
/-! R37: no step observes a stack entry at or above SP. Another call stack commutes with every instruction but CALL and
RET, and these two see no entry at or above SP. -/

namespace Sys2Proof.Machine

/-- The state with another call stack. -/
def State.withStack (s : State) (σ : Vector Word 16) : State := { s with stack := σ }

/-- R37: the call stack `σ` has the occupied entries of `s`. -/
def AgreesBelowSp (s : State) (σ : Vector Word 16) : Prop :=
  ∀ k : Fin 16, k.val < s.sp.val → σ[k.val] = s.stack[k.val]

/-- R37: two states that differ at most at or above SP are a state and the same with another stack. -/
theorem sameBelowSp_iff {s t : State} : SameBelowSp s t ↔ ∃ σ, t = s.withStack σ ∧ AgreesBelowSp s σ := by
  constructor
  · rintro ⟨he, hk⟩
    exact ⟨t.stack, by rw [← he]; rfl, hk⟩
  · rintro ⟨σ, rfl, hk⟩
    exact ⟨rfl, hk⟩

section
variable {s t : State} {i : Instr} {σ : Vector Word 16}

/-- What neither the entries nor SP of a state changed keeps the agreement. -/
theorem AgreesBelowSp.of_eq (h : AgreesBelowSp s σ) (hstack : t.stack = s.stack) (hsp : t.sp = s.sp) :
    AgreesBelowSp t σ := by
  simpa only [AgreesBelowSp, hstack, hsp] using h

/-! ### Operations that do not see the stack -/

/-- R51: the addresses from I on. -/
theorem State.indexed_withStack (n : Nat) : (s.withStack σ).indexed n = s.indexed n := by
  simp only [State.indexed, State.addrRange_eq]; rfl

theorem State.writeCells_withStack (ws : List (Nat × Byte)) :
    (s.withStack σ).writeCells ws = (s.writeCells ws).withStack σ := by
  induction ws generalizing s with
  | nil => rfl
  | cons c ws ih => exact ih (s := s.writeByte c.1 c.2)

theorem State.loadRegs_withStack (k : Nat) (ys : List Byte) :
    (s.withStack σ).loadRegs k ys = (s.loadRegs k ys).withStack σ := by
  induction ys generalizing s k with
  | nil => rfl
  | cons y ys ih => exact ih (s := s.setReg (BitVec.ofNat 4 k) y) (k + 1)

theorem State.storeAtI_withStack {ys : List Byte} (h : s.storeAtI i ys = .next t) :
    (s.withStack σ).storeAtI i ys = .next (t.withStack σ) := by
  unfold State.storeAtI at h ⊢
  rw [State.indexed_withStack]
  cases hx : s.indexed ys.length <;> simp only [hx] at h ⊢ <;> cases h
  · rfl
  · rw [State.writeCells_withStack]; rfl

theorem execLdVxMem_withStack {x : Nibble} (h : execLdVxMem x s = .next t) :
    execLdVxMem x (s.withStack σ) = .next (t.withStack σ) := by
  unfold execLdVxMem at h ⊢
  rw [State.indexed_withStack]
  cases hx : s.indexed (x.toNat + 1) <;> simp only [hx] at h ⊢ <;> cases h
  · rfl
  · rw [State.loadRegs_withStack]; rfl

theorem execDrw_withStack {x y n : Nibble} (h : execDrw x y n s = .next t) :
    execDrw x y n (s.withStack σ) = .next (t.withStack σ) := by
  unfold execDrw at h ⊢
  rw [State.indexed_withStack]
  cases hx : s.indexed n.toNat <;> simp only [hx] at h ⊢ <;> cases h <;> rfl

theorem execSkp_withStack {x : Nibble} (h : execSkp x s = .next t) :
    execSkp x (s.withStack σ) = .next (t.withStack σ) := by
  have hx : (s.withStack σ).keyIndex ((s.withStack σ).reg x) = s.keyIndex (s.reg x) := rfl
  unfold execSkp at h ⊢
  rw [hx]
  cases hk : s.keyIndex (s.reg x) <;> simp only [hk] at h ⊢ <;> cases h <;> rfl

theorem execSknp_withStack {x : Nibble} (h : execSknp x s = .next t) :
    execSknp x (s.withStack σ) = .next (t.withStack σ) := by
  have hx : (s.withStack σ).keyIndex ((s.withStack σ).reg x) = s.keyIndex (s.reg x) := rfl
  unfold execSknp at h ⊢
  rw [hx]
  cases hk : s.keyIndex (s.reg x) <;> simp only [hk] at h ⊢ <;> cases h <;> rfl

/-- R97, R98: the key wait. -/
theorem State.continueKeyWait_withStack (x : Nibble) :
    (s.withStack σ).continueKeyWait x = (s.continueKeyWait x).withStack σ := by
  obtain ⟨he, hw⟩ | ⟨k, he, hw⟩ := s.continueKeyWait_cases x
  · rw [hw]; simp only [State.continueKeyWait, State.withStack, he]
  · rw [hw]; simp only [State.continueKeyWait, State.withStack, he]; rfl

/-- R25: an instruction other than CALL and RET does the same over another stack. -/
theorem exec_withStack (h : exec i s = .next t) (hcall : ∀ nnn, i ≠ .call nnn) (hret : i ≠ .ret) :
    exec i (s.withStack σ) = .next (t.withStack σ) := by
  cases i
  case call nnn => exact absurd rfl (hcall nnn)
  case ret => exact absurd rfl hret
  case drw => exact execDrw_withStack h
  case skp => exact execSkp_withStack h
  case sknp => exact execSknp_withStack h
  case ldBVx => exact State.storeAtI_withStack h
  case ldMemVx => exact State.storeAtI_withStack h
  case ldVxMem => exact execLdVxMem_withStack h
  all_goals cases h; rfl

/-! ### CALL and RET -/

/-- R112: the new occupied entry of a CALL is the return address, over either stack. -/
theorem execCall_agreesBelowSp {nnn : Addr} (hσ : AgreesBelowSp s σ) (h : execCall nnn s = .next t) :
    ∃ τ, execCall nnn (s.withStack σ) = .next (t.withStack τ) ∧ AgreesBelowSp t τ := by
  by_cases hlt : s.sp.val < 16
  · cases (execCall_of_lt nnn hlt).symm.trans h
    refine ⟨σ.set s.sp.val (low12 (s.pc.toNat + 2)), execCall_of_lt (s := s.withStack σ) nnn hlt, fun k hk => ?_⟩
    simp only [State.setPc_sp, State.setSp_sp] at hk
    simp only [State.setPc_stack, State.setSp_stack, State.setStackEntry_stack, Vector.getElem_set]
    split
    · rfl
    · exact hσ k (by omega)
  · cases (execCall_of_not_lt nnn hlt).symm.trans h
    exact ⟨σ, execCall_of_not_lt (s := s.withStack σ) nnn hlt, hσ⟩

/-- R110: the entry that a RET pops is an occupied one, so it is the same in either stack. -/
theorem execRet_agreesBelowSp (hσ : AgreesBelowSp s σ) (h : execRet s = .next t) :
    ∃ τ, execRet (s.withStack σ) = .next (t.withStack τ) ∧ AgreesBelowSp t τ := by
  by_cases h0 : s.sp.val = 0
  · cases (execRet_of_eq_zero h0).symm.trans h
    exact ⟨σ, execRet_of_eq_zero (s := s.withStack σ) h0, hσ⟩
  · cases (execRet_of_ne_zero h0).symm.trans h
    have htop : σ[s.sp.val - 1] = s.stack[s.sp.val - 1] := hσ ⟨s.sp.val - 1, by omega⟩ (by simp only; omega)
    refine ⟨σ, ?_, fun k hk => hσ k ?_⟩
    · rw [← htop]
      exact execRet_of_ne_zero (s := s.withStack σ) h0
    · simp only [State.setPc_sp, State.setSp_sp] at hk
      omega

/-! ### Every instruction, every step -/

/-- R37: an instruction takes a state and the same with another stack that agrees below SP to two such states. -/
theorem exec_agreesBelowSp (hσ : AgreesBelowSp s σ) (h : exec i s = .next t) :
    ∃ τ, exec i (s.withStack σ) = .next (t.withStack τ) ∧ AgreesBelowSp t τ := by
  by_cases hcall : ∃ nnn, i = .call nnn
  · obtain ⟨nnn, rfl⟩ := hcall
    exact execCall_agreesBelowSp hσ h
  · by_cases hret : i = .ret
    · subst hret
      exact execRet_agreesBelowSp hσ h
    · have hcall := not_exists.1 hcall
      have he := exec_effect h
      exact ⟨σ, exec_withStack h hcall hret, hσ.of_eq (he.stack_eq hcall) (he.sp_eq hcall hret)⟩

/-- R37: the same of a step: outside of an instruction a step does not see the stack. -/
theorem step_agreesBelowSp (hσ : AgreesBelowSp s σ) (h : step s = .next t) :
    ∃ τ, step (s.withStack σ) = .next (t.withStack τ) ∧ AgreesBelowSp t τ := by
  rcases step_cases s t h with ⟨hm, hf, rfl⟩ | ⟨w, hm, hf, hd, rfl⟩ | ⟨w, i, hm, hf, hd, he⟩ | ⟨x, hm, rfl⟩ | ⟨hm, rfl⟩
  · exact ⟨σ, step_of_fetch_eq_none hm hf, hσ⟩
  · exact ⟨σ, step_of_unknown hm hf hd, hσ⟩
  · rw [step_of_fetches (s := s.withStack σ) ⟨hm, w, hf, hd⟩]
    exact exec_agreesBelowSp hσ he
  · refine ⟨σ, ?_, hσ.of_eq (by simp) (by simp)⟩
    rw [step_of_awaitingKey (s := s.withStack σ) hm, State.continueKeyWait_withStack]
  · exact ⟨σ, step_of_isHalted hm, hσ⟩

end

/-- Settles O26: the two states are one state over two stacks that agree below SP, and a step keeps that. -/
theorem stackAboveSpIsUnobservable : Obligations.StackAboveSpIsUnobservable := by
  intro s t s' hst h
  obtain ⟨σ, rfl, hσ⟩ := sameBelowSp_iff.1 hst
  obtain ⟨τ, hstep, hτ⟩ := step_agreesBelowSp hσ h
  exact ⟨_, hstep, sameBelowSp_iff.2 ⟨τ, rfl, hτ⟩⟩

end Sys2Proof.Machine
end

section
/-! The word that a fetch reads, from the two addresses it reads at. -/

namespace Sys2Proof.Machine

/-- R51: an address of the address space is taken as it is, whatever `P_ADDR_OVERFLOW` is. -/
theorem State.addr_of_lt (s : State) {a : Nat} (h : a < 0x1000) : s.addr a = some a := by
  rw [State.addr_eq, if_pos (.inr h), Nat.mod_eq_of_lt h]

/-- R56: the fetched word has its high byte at `addr(PC)` and its low byte at `addr(PC + 1)`. -/
theorem State.fetch_of_addr {s : State} {a b : Nat} (ha : s.addr s.pc.toNat = some a)
    (hb : s.addr (s.pc.toNat + 1) = some b) :
    s.fetch = some (wordOfBytes (s.readByte a) (s.readByte b)) := by
  simp only [State.fetch, ha, hb]

/-- Settles O7: a PC of the address space is its own address, and the two bytes make the word by shift and or. -/
theorem fetchIsBigEndian : Obligations.FetchIsBigEndian := by
  intro s a hpc ha
  have hpc : s.addr s.pc.toNat = some s.pc.toNat := s.addr_of_lt (by omega)
  rw [State.fetch_of_addr hpc ha, wordOfBytes_eq_shift_or]

end Sys2Proof.Machine
end

section
/-! The encoder and the decoder are each other's inverses: an instruction's fields read back from its word, and a word
is rebuilt from the fields that its instruction keeps and the constants that the decoder matched. -/

namespace Sys2Proof

/-- R73, R74: the decoder reads every instruction back from its word. -/
@[simp] theorem decode_encode (i : Instr) : decode (encode i) = .instr i := by
  cases i with
  | cls | ret => rfl
  | jp | call | ldINnn | jpV0 => simp [encode, decode, fieldsOf_nnnWord]
  | seVxNn | sneVxNn | ldVxNn | addVxNn | rnd => simp [encode, decode, fieldsOf_xnnWord]
  | seVxVy | sneVxVy | drw => simp [encode, decode, fieldsOf_xynWord]
  | ldVxVy | or | and | xor | addVxVy | sub | shr | subn | shl =>
    simp [encode, decode, decodeFamily8, fieldsOf_xynWord]
  | skp | sknp => simp [encode, decode, decodeFamilyE, fieldsOf_xnnWord]
  | ldVxDt | ldVxK | ldDtVx | ldStVx | addIVx | ldFVx | ldBVx | ldMemVx | ldVxMem =>
    simp [encode, decode, decodeFamilyF, fieldsOf_xnnWord]

/-- R70, R71: the byte decoder reads every instruction back from its two bytes and stops after them. -/
theorem decodeBytes_encodeBytes_append (i : Instr) (rest : List Byte) :
    decodeBytes (encodeBytes i ++ rest) = .ok (i, rest) := by
  simp only [encodeBytes, List.cons_append, List.nil_append, decodeBytes, wordOfBytes_hi_lo, decode_encode]

/-- Settles O1: the word decodes to its instruction, and the bytes make that word. -/
theorem decodeOfEncodeIsTheInstruction : Obligations.DecodeOfEncodeIsTheInstruction :=
  fun i rest => ⟨decode_encode i, decodeBytes_encodeBytes_append i rest⟩

section
variable {w : Word} {i : Instr} {family n : Nibble} {nn : Byte}

/-- R70: a word of a known family is that family and its nnn. -/
theorem nnnWord_of_family (hf : (fieldsOf w).family = family) : nnnWord family (fieldsOf w).nnn = w :=
  hf ▸ nnnWord_fieldsOf w

/-- R70: a word of a known family and nn is these and its x. -/
theorem xnnWord_of_family_nn (hf : (fieldsOf w).family = family) (hnn : (fieldsOf w).nn = nn) :
    xnnWord family (fieldsOf w).x nn = w :=
  hf ▸ hnn ▸ xnnWord_fieldsOf w

/-- R70: a word of a known family and n is these, its x and its y. -/
theorem xynWord_of_family_n (hf : (fieldsOf w).family = family) (hn : (fieldsOf w).n = n) :
    xynWord family (fieldsOf w).x (fieldsOf w).y n = w :=
  hf ▸ hn ▸ xynWord_fieldsOf w

/-- R74: a decoded word of family 0x0 is its instruction's word. -/
theorem encode_of_decodeFamily0 (h : decodeFamily0 w = .instr i) : encode i = w := by
  unfold decodeFamily0 at h
  split_ifs at h with hcls hret <;> cases h
  · exact hcls.symm
  · exact hret.symm

/-- R74: a decoded word of family 0x8 is its instruction's word: its n is the constant matched. -/
theorem encode_of_decodeFamily8 (hf : (fieldsOf w).family = 0x8#4)
    (h : decodeFamily8 (fieldsOf w) w = .instr i) : encode i = w := by
  unfold decodeFamily8 at h
  split at h <;> cases h
  all_goals exact xynWord_of_family_n hf ‹(fieldsOf w).n = _›

/-- R74: a decoded word of family 0xE is its instruction's word: its nn is the constant matched. -/
theorem encode_of_decodeFamilyE (hf : (fieldsOf w).family = 0xE#4)
    (h : decodeFamilyE (fieldsOf w) w = .instr i) : encode i = w := by
  unfold decodeFamilyE at h
  split at h <;> cases h
  all_goals exact xnnWord_of_family_nn hf ‹(fieldsOf w).nn = _›

/-- R74: a decoded word of family 0xF is its instruction's word: its nn is the constant matched. -/
theorem encode_of_decodeFamilyF (hf : (fieldsOf w).family = 0xF#4)
    (h : decodeFamilyF (fieldsOf w) w = .instr i) : encode i = w := by
  unfold decodeFamilyF at h
  split at h <;> cases h
  all_goals exact xnnWord_of_family_nn hf ‹(fieldsOf w).nn = _›

/-- R73, R74: a word that decodes to an instruction is that instruction's word. The case `h_k` is the decoder's
arm of family `k - 1`; the family and the constant of a form's sub-opcode come back from the arm that matched. -/
theorem encode_of_decode (h : decode w = .instr i) : encode i = w := by
  unfold decode at h
  simp only at h
  split at h
  case h_1 => exact encode_of_decodeFamily0 h
  case h_9 hf => exact encode_of_decodeFamily8 hf h
  case h_15 hf => exact encode_of_decodeFamilyE hf h
  case h_16 hf => exact encode_of_decodeFamilyF hf h
  case h_6 hf | h_10 hf =>
    split_ifs at h with hn
    cases h
    exact xynWord_of_family_n hf hn
  case h_2 hf | h_3 hf | h_11 hf | h_12 hf => cases h; exact nnnWord_of_family hf
  case h_4 hf | h_5 hf | h_7 hf | h_8 hf | h_13 hf => cases h; exact xnnWord_of_family_nn hf rfl
  case h_14 hf => cases h; exact xynWord_of_family_n hf rfl
  case h_17 => cases h

end

/-- Settles O2: the decoder's inversion, family by family. -/
theorem encodeOfDecodedIsTheWord : Obligations.EncodeOfDecodedIsTheWord :=
  fun _ _ => encode_of_decode

/-- Settles O5: the model decodes each of the eleven words. -/
theorem exampleWordsDecode : Obligations.ExampleWordsDecode := by
  unfold Obligations.ExampleWordsDecode
  decide

end Sys2Proof
end

section
/-! What becomes of the engine state: an instruction halts with its own word, waits, or goes on, and a step that halts
records the fetched word. -/

namespace Sys2Proof.Machine

/-! ### Instructions -/

/-- R93, R95: what an instruction can make of the engine state: a halt with the instruction's own word that changes
nothing else, a key wait, or the engine state as it was. -/
inductive ModeAfter (s : State) (i : Instr) (t : State) : Prop
  | halt (r : HaltReason) (h : t = s.raiseHalt r (some (encode i)))
  | wait (x : Nibble) (h : t.mode = .awaitingKey x)
  | same (h : t.mode = s.mode)

/-- R90, R93: every instruction answers a next state, in one of these ways. -/
theorem exec_answers (i : Instr) (s : State) : ∃ t, exec i s = .next t ∧ ModeAfter s i t := by
  cases i with
  | ret =>
    by_cases h0 : s.sp.val = 0
    · exact ⟨_, execRet_of_eq_zero h0, .halt _ rfl⟩
    · exact ⟨_, execRet_of_ne_zero h0, .same rfl⟩
  | call nnn =>
    by_cases hlt : s.sp.val < 16
    · exact ⟨_, execCall_of_lt nnn hlt, .same rfl⟩
    · exact ⟨_, execCall_of_not_lt nnn hlt, .halt _ rfl⟩
  | drw x y n =>
    obtain ⟨-, he⟩ | ⟨-, he⟩ := execDrw_cases x y n s
    · exact ⟨_, he, .halt _ rfl⟩
    · exact ⟨_, he, .same rfl⟩
  | skp x =>
    obtain ⟨-, he⟩ | ⟨k, -, he⟩ := execSkp_cases x s
    · exact ⟨_, he, .halt _ rfl⟩
    · exact ⟨_, he, .same rfl⟩
  | sknp x =>
    obtain ⟨-, he⟩ | ⟨k, -, he⟩ := execSknp_cases x s
    · exact ⟨_, he, .halt _ rfl⟩
    · exact ⟨_, he, .same rfl⟩
  | ldBVx x =>
    obtain ⟨-, he⟩ | ⟨-, he⟩ := s.storeAtI_cases (.ldBVx x) (bcdDigits (s.reg x))
    · exact ⟨_, he, .halt _ rfl⟩
    · exact ⟨_, he, .same (by simp)⟩
  | ldMemVx x =>
    obtain ⟨-, he⟩ | ⟨-, he⟩ := s.storeAtI_cases (.ldMemVx x) (s.regRange x)
    · exact ⟨_, he, .halt _ rfl⟩
    · exact ⟨_, he, .same (by simp)⟩
  | ldVxMem x =>
    obtain ⟨-, he⟩ | ⟨-, he⟩ := execLdVxMem_cases x s
    · exact ⟨_, he, .halt _ rfl⟩
    · exact ⟨_, he, .same (by simp)⟩
  | ldVxK x => exact ⟨_, rfl, .wait x rfl⟩
  | cls | jp | jpV0 | seVxNn | sneVxNn | seVxVy | sneVxVy | ldVxNn | addVxNn | ldVxVy | or | and | xor | addVxVy | sub
  | shr | subn | shl | rnd | ldINnn | addIVx | ldFVx | ldVxDt | ldDtVx | ldStVx => exact ⟨_, rfl, .same rfl⟩

/-- R93, R95: from Running, an instruction that ends in Halted changes only the mode and records its own word. -/
theorem exec_of_isHalted {i : Instr} {s t : State} (hm : s.mode = .running) (h : exec i s = .next t)
    (ht : t.mode.isHalted = true) : ∃ r, t = s.raiseHalt r (some (encode i)) := by
  obtain ⟨u, hu, hmode⟩ := exec_answers i s
  cases hu.symm.trans h
  cases hmode with
  | halt r he => exact ⟨r, he⟩
  | wait x he => simp [he, Mode.isHalted] at ht
  | same he => simp [he, hm, Mode.isHalted] at ht

/-! ### Steps -/

section
variable {s t : State}

/-- R93, R95: from Running, a step that ends in Halted changes only the mode and records the fetched word, or none when
the fetch itself halted: an instruction's own word is the one it was decoded from. -/
theorem step_of_running_isHalted (hm : s.mode = .running) (h : step s = .next t) (ht : t.mode.isHalted = true) :
    ∃ r, t = s.raiseHalt r s.fetch := by
  rcases step_cases s t h with ⟨-, hf, he⟩ | ⟨w, -, hf, -, he⟩ | ⟨w, i, -, hf, hd, he⟩ | ⟨x, hw, -⟩ | ⟨hh, -⟩
  · exact ⟨_, hf ▸ he⟩
  · exact ⟨_, hf ▸ he⟩
  · obtain ⟨r, hr⟩ := exec_of_isHalted hm he ht
    rw [encode_of_decode hd, ← hf] at hr
    exact ⟨r, hr⟩
  · cases hm.symm.trans hw
  · simp [hm, Mode.isHalted] at hh

/-- R97: in AwaitingKey with no edge latched a step does nothing. -/
theorem step_of_awaitingKey_of_edge_eq_none {x : Nibble} (hm : s.mode = .awaitingKey x) (he : s.edge = none) :
    step s = .next s := by
  rw [step_of_awaitingKey hm, State.continueKeyWait, he]

/-- R235: the host's `step` moves the block to the step's next state. -/
theorem hostOp_apply_step (h : step s = .next t) : HostOp.apply s .step = t := by
  simp only [HostOp.apply, h]

/-- R283: a state that a step leaves as it is, any number of steps leaves as it is. -/
theorem runOps_replicate_step (h : step s = .next s) (n : Nat) : runOps s (List.replicate n .step) = s := by
  induction n with
  | zero => rfl
  | succ n ih =>
    calc runOps s (List.replicate (n + 1) .step)
      _ = runOps (HostOp.apply s .step) (List.replicate n .step) := rfl
      _ = runOps s (List.replicate n .step) := by rw [hostOp_apply_step h]
      _ = s := ih

end

/-! ### The obligations -/

/-- Settles O12: in Running the answer is a halt of the fetch or of the decoder, or the instruction's; in the other two
engine states it is the key wait's, or the state itself. -/
theorem everyStepAnswers : Obligations.EveryStepAnswers := by
  have hexec (i : Instr) (s : State) : ∃ t, exec i s = .next t := (exec_answers i s).imp fun _ h => h.1
  refine ⟨hexec, fun s => ?_⟩
  cases hm : s.mode with
  | running =>
    cases hf : s.fetch with
    | none => exact ⟨_, step_of_fetch_eq_none hm hf⟩
    | some w =>
      cases hd : decode w with
      | unknown w' =>
        cases decode_unknown_word w w' hd
        exact ⟨_, step_of_unknown hm hf hd⟩
      | instr i =>
        rw [step_of_fetches ⟨hm, w, hf, hd⟩]
        exact hexec i s
  | awaitingKey x => exact ⟨_, step_of_awaitingKey hm⟩
  | halted r w p => exact ⟨_, step_of_isHalted (by rw [hm]; rfl)⟩

/-- Settles O13: the next state is the halt of `step_of_running_isHalted`, whose mode holds the record. -/
theorem haltIsAllOrNothing : Obligations.HaltIsAllOrNothing := by
  intro s t r w p hm h ht
  obtain ⟨r', rfl⟩ := step_of_running_isHalted hm h (by rw [ht]; rfl)
  cases ht
  exact ⟨rfl, rfl, rfl⟩

/-- Settles O6: a fetched word is executed as the instruction it decodes to, or halts as Unknown. -/
theorem stepRunsDecodedInstruction : Obligations.StepRunsDecodedInstruction :=
  fun _ w hm hf => ⟨fun _ hd => step_of_fetches ⟨hm, w, hf, hd⟩, step_of_unknown hm hf⟩

/-- Settles O9: without an edge the step of the key wait is the state itself, and so is every repetition. -/
theorem waitWithoutEdgeChangesNothing : Obligations.WaitWithoutEdgeChangesNothing := by
  intro s x hm he
  have hstep : step s = .next s := step_of_awaitingKey_of_edge_eq_none hm he
  exact ⟨hstep, hm, runOps_replicate_step hstep⟩

end Sys2Proof.Machine
end

section
/-! The frame `ChangesOnly`: what the updates of PC, SP and the call stack change, and that frames compose. -/

namespace Sys2Proof.Machine

section
variable {s t u : State}

/-- A piece that two updates leave, their composition leaves. -/
theorem SamePiece.trans {p : Piece} (hst : SamePiece s t p) (htu : SamePiece t u p) : SamePiece s u p := by
  cases p <;> exact Eq.trans htu hst

/-- Two updates in a row change only what the one or the other changes. -/
theorem ChangesOnly.trans {ps qs : List Piece} (hst : ChangesOnly s t ps) (htu : ChangesOnly t u qs) :
    ChangesOnly s u (ps ++ qs) := by
  intro p hp
  rw [List.mem_append, not_or] at hp
  obtain ⟨hps, hqs⟩ := hp
  exact (hst p hps).trans (htu p hqs)

end

section
variable (s : State)

/-- R22: a write to PC changes only PC. -/
theorem State.setPc_changesOnly (a : Nat) : ChangesOnly s (s.setPc a) [.pc] := by
  intro p hp
  cases p
  case pc => exact absurd (List.mem_singleton.2 rfl) hp
  all_goals rfl

/-- R25: a write to SP changes only SP. -/
theorem State.setSp_changesOnly (k : Fin 17) : ChangesOnly s (s.setSp k) [.sp] := by
  intro p hp
  cases p
  case sp => exact absurd (List.mem_singleton.2 rfl) hp
  all_goals rfl

/-- R25: a write to a stack entry changes only that entry. -/
theorem State.setStackEntry_changesOnly (k : Fin 16) (w : Word) :
    ChangesOnly s (s.setStackEntry k w) [.stackEntry k] := by
  intro p hp
  cases p
  case stackEntry j =>
    have hne : k.val ≠ j.val := fun h => hp (by simp [Fin.ext h])
    simp only [SamePiece, State.setStackEntry_stack, Vector.getElem_set_ne _ _ hne]
  all_goals rfl

end

end Sys2Proof.Machine
end

section
/-! Control flow (41_flow.md): JP, CALL and RET. -/

namespace Sys2Proof.Machine

/-- R72: an address operand has 12 bits, so its reduction is itself. -/
theorem low12_addr_toNat (nnn : Addr) : (low12 nnn.toNat).toNat = nnn.toNat := by
  rw [low12_toNat]
  exact Nat.mod_eq_of_lt nnn.isLt

/-- R22: writing to PC the address it holds changes nothing. -/
theorem State.setPc_eq_self {s : State} {nnn : Addr} (h : s.pc.toNat = nnn.toNat) : s.setPc nnn.toNat = s := by
  have hpc : low12 nnn.toNat = s.pc := BitVec.eq_of_toNat_eq ((low12_addr_toNat nnn).trans h.symm)
  rw [State.setPc, hpc]

/-- Settles O34: the next state is `s.setPc nnn.toNat`. -/
theorem jumpSetsPc : Obligations.JumpSetsPc :=
  fun nnn s => ⟨decode_encode (.jp nnn), _, rfl, low12_addr_toNat nnn, s.setPc_changesOnly _, State.setPc_eq_self⟩

/-- Settles O35: below a full stack the next state writes the entry, SP and PC, in that order; on a full stack it is the
halt. -/
theorem callPushesTheReturnAddress : Obligations.CallPushesTheReturnAddress := by
  refine fun nnn s => ⟨decode_encode (.call nnn), fun h => ?_, fun h => execCall_of_not_lt nnn (by omega)⟩
  refine ⟨_, execCall_of_lt nnn h, ?_, rfl, low12_addr_toNat nnn, ?_⟩
  · simp
  · exact ((s.setStackEntry_changesOnly _ _).trans (State.setSp_changesOnly _ _)).trans (State.setPc_changesOnly _ _)

/-- Settles O36: above an empty stack the next state writes SP and PC, and an entry of 12 bits is its own reduction; on
an empty stack it is the halt. -/
theorem returnPopsTheStack : Obligations.ReturnPopsTheStack := by
  refine fun s => ⟨decode_encode .ret, fun h => ?_, execRet_of_eq_zero⟩
  refine ⟨_, execRet_of_ne_zero (by omega), low12_toNat _, low12_toNat_of_le _, rfl, ?_⟩
  exact (s.setSp_changesOnly _).trans (State.setPc_changesOnly _ _)

end Sys2Proof.Machine
end

section
/-! Moves, the addition without carry and the bitwise operations (42_alu.md): the instructions that end in
`State.moveResult`, which writes Vx and advances PC. -/

namespace Sys2Proof.Machine

section
variable (s : State)

/-- R20: a write to a register changes only that register. -/
theorem State.setReg_changesOnly (x : Nibble) (v : Byte) : ChangesOnly s (s.setReg x v) [.reg x] := by
  intro p hp
  cases p
  case reg z =>
    have hne : z ≠ x := fun h => hp (by simp [h])
    simp only [SamePiece, State.reg_setReg, if_neg hne]
  all_goals rfl

/-- R92: going on to the next instruction changes only PC. -/
theorem State.advance_changesOnly : ChangesOnly s s.advance [.pc] := s.setPc_changesOnly _

/-- R92: the next instruction is two bytes further. -/
theorem State.advance_pcAdvanced : PcAdvanced s s.advance 2 := low12_toNat _

/-- R130–R135: what `moveResult` does: the result in Vx, PC advanced, the rest left. -/
theorem State.moveResult_spec (x : Nibble) (v : Byte) :
    ∃ t, s.moveResult x v = .next t ∧ t.reg x = v ∧ PcAdvanced s t 2 ∧ ChangesOnly s t [.reg x, .pc] :=
  ⟨_, rfl, s.reg_setReg_self x v, (s.setReg x v).advance_pcAdvanced,
    (s.setReg_changesOnly x v).trans (State.advance_changesOnly _)⟩

/-- R133–R135: `moveResult_spec` for a result known bit by bit. -/
theorem State.moveResult_bits {x : Nibble} {v : Byte} {b : Nat → Bool} (hv : ∀ k, v.getLsbD k = b k) :
    ∃ t, s.moveResult x v = .next t ∧ (∀ k, (t.reg x).getLsbD k = b k) ∧ PcAdvanced s t 2 ∧
      ChangesOnly s t [.reg x, .pc] := by
  obtain ⟨t, ht, hreg, hpc, hframe⟩ := s.moveResult_spec x v
  exact ⟨t, ht, fun k => hreg ▸ hv k, hpc, hframe⟩

end

/-- Settles O40: both loads are `moveResult`, of nn and of Vy. -/
theorem loadsWriteVx : Obligations.LoadsWriteVx :=
  fun x y nn s => ⟨decode_encode (.ldVxNn x nn), decode_encode (.ldVxVy x y), s.moveResult_spec x nn,
    s.moveResult_spec x (s.reg y)⟩

/-- Settles O41: `moveResult` of the 8-bit sum, whose value is the sum mod 0x100. -/
theorem addImmediateWraps : Obligations.AddImmediateWraps := by
  refine fun x nn s => ⟨decode_encode (.addVxNn x nn), ?_⟩
  obtain ⟨t, ht, hreg, hpc, hframe⟩ := s.moveResult_spec x (s.reg x + nn)
  have hsum : (t.reg x).toNat = ((s.reg x).toNat + nn.toNat) % 0x100 := by rw [hreg, BitVec.toNat_add]
  exact ⟨t, ht, hsum, hpc, hframe⟩

/-- Settles O42: `moveResult` of the bitwise OR, AND and XOR of the two registers. -/
theorem bitwiseOperationsWriteVx : Obligations.BitwiseOperationsWriteVx :=
  fun x y s => ⟨decode_encode (.or x y), decode_encode (.and x y), decode_encode (.xor x y),
    s.moveResult_bits fun _ => BitVec.getLsbD_or, s.moveResult_bits fun _ => BitVec.getLsbD_and,
    s.moveResult_bits fun _ => BitVec.getLsbD_xor⟩

end Sys2Proof.Machine
end

section
/-! Setting the index register (43_index_memory.md): LD I, nnn and LD F, Vx, which write I and advance PC. -/

namespace Sys2Proof.Machine

section
variable (s : State)

/-- R24: a write to I changes only I. -/
theorem State.setI_changesOnly (a : Nat) : ChangesOnly s (s.setI a) [.i] := by
  intro p hp
  cases p
  case i => exact absurd (List.mem_singleton.2 rfl) hp
  all_goals rfl

/-- R24, R92: an address of 12 bits written to I is not reduced; PC advances, and the rest is left. -/
theorem State.setI_advance_spec {a : Nat} (ha : a < 0x1000) :
    (s.setI a).advance.i.toNat = a ∧ PcAdvanced s (s.setI a).advance 2 ∧
      ChangesOnly s (s.setI a).advance [.i, .pc] :=
  ⟨(low12_toNat a).trans (Nat.mod_eq_of_lt ha), (s.setI a).advance_pcAdvanced,
    (s.setI_changesOnly a).trans (State.advance_changesOnly _)⟩

end

/-- Settles O47: both instructions write I and advance PC, and both values have 12 bits: nnn by its type, and the
address of a glyph because it is at most 5 * 15. -/
theorem indexIsSet : Obligations.IndexIsSet := by
  intro nnn x s
  have hglyph : 5 * ((s.reg x).toNat % 16) < 0x1000 := by omega
  exact ⟨decode_encode (.ldINnn nnn), decode_encode (.ldFVx x), ⟨_, rfl, s.setI_advance_spec nnn.isLt⟩,
    ⟨_, rfl, s.setI_advance_spec hglyph⟩⟩

end Sys2Proof.Machine
end

section
/-! The display (44_display.md): CLS, and which instructions and ports write the buffer. -/

namespace Sys2Proof.Machine

/-! ### CLS -/

/-- R29: a write of the display changes only the display. -/
theorem State.setDisp_changesOnly (s : State) (d : Display) : ChangesOnly s (s.setDisp d) [.disp] := by
  intro p hp
  cases p
  case disp => exact absurd (List.mem_singleton.2 rfl) hp
  all_goals rfl

/-- Settles O54: the next state is `(s.setDisp blankDisplay).advance`. -/
theorem clearBlanksTheDisplay : Obligations.ClearBlanksTheDisplay := by
  refine fun s => ⟨decode_encode .cls, (s.setDisp blankDisplay).advance, rfl, fun c r => ?_, ?_, ?_⟩
  · exact get_blankDisplay (c, r)
  · exact (s.setDisp blankDisplay).advance_pcAdvanced
  · exact (s.setDisp_changesOnly blankDisplay).trans (State.advance_changesOnly _)

/-! ### Who writes the display -/

section
variable {s t : State}

/-- R183: only CLS and DRW write the display. -/
theorem Effect.disp_eq {i : Instr} (h : Effect s i t) (hcls : i ≠ .cls) (hdrw : ∀ x y n, i ≠ .drw x y n) :
    t.disp = s.disp := by
  cases h
  case cls => exact absurd rfl hcls
  case drw x y n _ _ => exact absurd rfl (hdrw x y n)
  all_goals simp

/-- R183: a step that fetches neither CLS nor DRW leaves the display. -/
theorem step_disp (h : step s = .next t) (hcls : ¬ Fetches s .cls) (hdrw : ∀ x y n, ¬ Fetches s (.drw x y n)) :
    t.disp = s.disp :=
  step_leaves State.disp h (by simp) (by simp) fun _ hf he =>
    he.disp_eq (fun hi => hcls (hi ▸ hf)) fun x y n hi => hdrw x y n (hi ▸ hf)

/-- R273: a ROM that is not refused is written from 0x200, and nothing else is done. -/
theorem State.eq_writeBytesAt_of_load {rom : List Byte} (h : s.load rom = .ok t) : t = s.writeBytesAt 0x200 rom := by
  unfold State.load at h
  split at h <;> cases h
  rfl

end

/-- R183: the ports other than `step` and `reset` leave the display. -/
theorem hostOp_apply_disp (s : State) {op : HostOp} (hstep : op ≠ .step) (hreset : op ≠ .reset) :
    (HostOp.apply s op).disp = s.disp := by
  cases op with
  | step => exact absurd rfl hstep
  | reset => exact absurd rfl hreset
  | tickTimers | setKey => rfl
  | load rom =>
    simp only [HostOp.apply]
    split
    next t h => rw [State.eq_writeBytesAt_of_load h, State.writeBytesAt_disp]
    next => rfl

/-- Settles O29: steps and ports leave the display as the lemmas above say; that reset and construction write the blank
one, and that the snapshot is the buffer, are their definitions. -/
theorem onlyClearAndDrawWriteTheDisplay : Obligations.OnlyClearAndDrawWriteTheDisplay :=
  ⟨fun _ _ => step_disp, fun s _ => hostOp_apply_disp s, fun _ => ⟨rfl, rfl⟩, rfl⟩

end Sys2Proof.Machine
end

section
/-! The delay timer (46_timers.md): LD Vx, DT and LD DT, Vx. -/

namespace Sys2Proof.Machine

/-- R26: a write to DT changes only DT. -/
theorem State.setDt_changesOnly (s : State) (y : Byte) : ChangesOnly s (s.setDt y) [.dt] := by
  intro p hp
  cases p
  case dt => exact absurd (List.mem_singleton.2 rfl) hp
  all_goals rfl

/-- Settles O59: LD Vx, DT is `moveResult` of DT, and the next state of LD DT, Vx is `(s.setDt (s.reg x)).advance`. -/
theorem delayTimerIsReadAndSet : Obligations.DelayTimerIsReadAndSet := by
  refine fun x s => ⟨s.moveResult_spec x s.dt, (s.setDt (s.reg x)).advance, rfl, ?_, ?_, ?_⟩
  · rw [State.advance_dt, State.setDt_dt]
  · exact (s.setDt (s.reg x)).advance_pcAdvanced
  · exact (s.setDt_changesOnly (s.reg x)).trans (State.advance_changesOnly _)

end Sys2Proof.Machine
end

section
/-! The load port (70_reset_and_hazards.md): a ROM that does not fit. -/

namespace Sys2Proof.Machine

/-- R274: a ROM above `maxRom` is refused. -/
theorem State.load_of_maxRom_lt (s : State) {rom : List Byte} (h : maxRom < rom.length) :
    s.load rom = .error .resourceError :=
  if_neg (Nat.not_le.2 h)

/-- R274: the host operation keeps the state when `load` answers an error, whichever it is. -/
theorem HostOp.apply_load_of_error {s : State} {rom : List Byte} {e : LoadError} (h : s.load rom = .error e) :
    HostOp.apply s (.load rom) = s := by
  simp only [HostOp.apply, h]

/-- Settles O19: `maxRom` is 0xE00, so `load` refuses the ROM, and the port keeps the state at a refusal. -/
theorem oversizedLoadFails : Obligations.OversizedLoadFails := by
  intro s rom hlen
  have hload : s.load rom = .error .resourceError := s.load_of_maxRom_lt hlen
  exact ⟨hload, HostOp.apply_load_of_error hload⟩

end Sys2Proof.Machine
end

section
/-! The frame `ChangesOnly` over the other updates of the state, and that it leaves out no piece of the state. -/

namespace Sys2Proof.Machine

section
variable {s t u : State} {p : Piece} {ps qs : List Piece}

/-- A frame may name more pieces. -/
theorem ChangesOnly.mono (h : ChangesOnly s t ps) (hsub : ps ⊆ qs) : ChangesOnly s t qs :=
  fun p hp => h p fun hps => hp (hsub hps)

/-- Two updates that change only the pieces `ps` do so in a row. -/
theorem ChangesOnly.trans_same (hst : ChangesOnly s t ps) (htu : ChangesOnly t u ps) : ChangesOnly s u ps :=
  (hst.trans htu).mono (List.append_subset_of_subset_of_subset (List.Subset.refl _) (List.Subset.refl _))

/-- No update: nothing changes. -/
theorem ChangesOnly.refl (s : State) (ps : List Piece) : ChangesOnly s s ps := by
  intro p _
  cases p <;> rfl

end

section
variable (s : State)

/-- R21: the flag is a register. -/
theorem State.setFlag_changesOnly (f : Byte) : ChangesOnly s (s.setFlag f) [.reg vf] := s.setReg_changesOnly vf f

/-- R92: a skip changes only PC. -/
theorem State.skipIf_changesOnly (c : Bool) : ChangesOnly s (s.skipIf c) [.pc] := s.setPc_changesOnly _

/-- R27: a write to ST changes only ST. -/
theorem State.setSt_changesOnly (y : Byte) : ChangesOnly s (s.setSt y) [.st] := by
  intro p hp
  cases p
  case st => exact absurd (List.mem_singleton.2 rfl) hp
  all_goals rfl

/-- R31: a change of the engine state changes only the mode. -/
theorem State.setMode_changesOnly (m : Mode) : ChangesOnly s (s.setMode m) [.mode] := by
  intro p hp
  cases p
  case mode => exact absurd (List.mem_singleton.2 rfl) hp
  all_goals rfl

/-- R32: a write to the latch changes only the latch. -/
theorem State.setEdge_changesOnly (e : Option Nibble) : ChangesOnly s (s.setEdge e) [.edge] := by
  intro p hp
  cases p
  case edge => exact absurd (List.mem_singleton.2 rfl) hp
  all_goals rfl

/-- R30: a write to a key level changes only the key levels. -/
theorem State.setKeyLevel_changesOnly (k : Nibble) (b : Bool) : ChangesOnly s (s.setKeyLevel k b) [.keys] := by
  intro p hp
  cases p
  case keys => exact absurd (List.mem_singleton.2 rfl) hp
  all_goals rfl

/-- R141: taking a draw changes only the count of draws. -/
theorem State.setDraws_changesOnly (k : Nat) : ChangesOnly s (s.setDraws k) [.draws] := by
  intro p hp
  cases p
  case draws => exact absurd (List.mem_singleton.2 rfl) hp
  all_goals rfl

end

/-- Settles O27: memory is equal because canonical memories that read alike are, the register file and the call stack
because their entries are, and every other field is a piece. -/
theorem frameCoversTheState : Obligations.FrameCoversTheState := by
  intro s t hs ht h
  have hsame (p : Piece) : SamePiece s t p := h p (List.not_mem_nil)
  have hcfg : t.cfg = s.cfg := hsame .cfg
  have hmem : t.mem = s.mem := by
    rw [hcfg] at ht
    refine Memory.ext_of_wf s.cfg.font _ _ ht hs fun a => ?_
    have hread : t.readByte a = s.readByte a := hsame (.mem a)
    rwa [State.readByte, hcfg] at hread
  have hv : t.v = s.v := State.v_ext s t fun x => hsame (.reg x)
  have hstack : t.stack = s.stack := Vector.ext fun k hk => hsame (.stackEntry ⟨k, hk⟩)
  cases s
  cases t
  simp only [State.mk.injEq]
  exact ⟨hmem.symm, hv.symm, (hsame .i).symm, (hsame .pc).symm, (hsame .sp).symm, hstack.symm, (hsame .dt).symm,
    (hsame .st).symm, (hsame .disp).symm, (hsame .keys).symm, (hsame .mode).symm, (hsame .edge).symm, hcfg.symm,
    (hsame .draws).symm⟩

end Sys2Proof.Machine
end

section
/-! The decoder against spec/opcode_table.json (R74) and the table of illegal words (R76). -/

namespace Sys2Proof.Machine

/-! ### The rows of the opcode map -/

section
variable {w : Word} {f n : Nibble} {nn : Byte}

/-- R74: a word that matches a row of mask 0xF000 is of the row's family. -/
theorem family_of_and_F000 (h : w &&& 0xF000#16 = nnnWord f 0) : (fieldsOf w).family = f := by
  have hw : nnnWord (fieldsOf w).family 0 = nnnWord f 0 := by rw [← h, ← nnnWord_and_F000, nnnWord_fieldsOf]
  rw [← (fieldsOf_nnnWord f 0).1, ← hw, (fieldsOf_nnnWord _ 0).1]

/-- R74: such a word is its family and its nnn. -/
theorem nnnWord_of_and_F000 (h : w &&& 0xF000#16 = nnnWord f 0) : nnnWord f (fieldsOf w).nnn = w :=
  nnnWord_of_family (family_of_and_F000 h)

/-- R74: such a word is its family, its x and its nn. -/
theorem xnnWord_of_and_F000 (h : w &&& 0xF000#16 = nnnWord f 0) : xnnWord f (fieldsOf w).x (fieldsOf w).nn = w :=
  xnnWord_of_family_nn (family_of_and_F000 h) rfl

/-- R74: such a word is its four nibbles. -/
theorem xynWord_of_and_F000 (h : w &&& 0xF000#16 = nnnWord f 0) :
    xynWord f (fieldsOf w).x (fieldsOf w).y (fieldsOf w).n = w :=
  xynWord_of_family_n (family_of_and_F000 h) rfl

/-- R74: a word that matches a row of mask 0xF0FF is of the row's family and nn. -/
theorem xnnWord_of_and_F0FF (h : w &&& 0xF0FF#16 = xnnWord f 0 nn) : xnnWord f (fieldsOf w).x nn = w := by
  have hw : xnnWord (fieldsOf w).family 0 (fieldsOf w).nn = xnnWord f 0 nn := by
    rw [← h, ← xnnWord_and_F0FF _ (fieldsOf w).x, xnnWord_fieldsOf]
  obtain ⟨hf, -, hnn⟩ := fieldsOf_xnnWord f 0 nn
  rw [← hw] at hf hnn
  obtain ⟨hf', -, hnn'⟩ := fieldsOf_xnnWord (fieldsOf w).family 0 (fieldsOf w).nn
  exact xnnWord_of_family_nn (hf'.symm.trans hf) (hnn'.symm.trans hnn)

/-- R74: a word that matches a row of mask 0xF00F is of the row's family and n. -/
theorem xynWord_of_and_F00F (h : w &&& 0xF00F#16 = xynWord f 0 0 n) :
    xynWord f (fieldsOf w).x (fieldsOf w).y n = w := by
  have hw : xynWord (fieldsOf w).family 0 0 (fieldsOf w).n = xynWord f 0 0 n := by
    rw [← h, ← xynWord_and_F00F _ (fieldsOf w).x (fieldsOf w).y, xynWord_fieldsOf]
  obtain ⟨hf, -, -, hn⟩ := fieldsOf_xynWord f 0 0 n
  rw [← hw] at hf hn
  obtain ⟨hf', -, -, hn'⟩ := fieldsOf_xynWord (fieldsOf w).family 0 0 (fieldsOf w).n
  exact xynWord_of_family_n (hf'.symm.trans hf) (hn'.symm.trans hn)

end

/-- R74: a word that matches a row is the word of an instruction of that row, one case per row: its operands are the
word's fields, and the row fixes the rest. -/
theorem exists_encode_of_matches {w : Word} {r : OpcodeRow} (hr : r ∈ opcodeRows) (h : r.Matches w) :
    ∃ i, encode i = w ∧ mnemonicOf i = r.mnemonic := by
  fin_cases hr
  · exact ⟨.cls, h.symm.trans BitVec.and_allOnes, rfl⟩
  · exact ⟨.ret, h.symm.trans BitVec.and_allOnes, rfl⟩
  · exact ⟨.jp _, nnnWord_of_and_F000 h, rfl⟩
  · exact ⟨.call _, nnnWord_of_and_F000 h, rfl⟩
  · exact ⟨.seVxNn _ _, xnnWord_of_and_F000 h, rfl⟩
  · exact ⟨.sneVxNn _ _, xnnWord_of_and_F000 h, rfl⟩
  · exact ⟨.seVxVy _ _, xynWord_of_and_F00F h, rfl⟩
  · exact ⟨.ldVxNn _ _, xnnWord_of_and_F000 h, rfl⟩
  · exact ⟨.addVxNn _ _, xnnWord_of_and_F000 h, rfl⟩
  · exact ⟨.ldVxVy _ _, xynWord_of_and_F00F h, rfl⟩
  · exact ⟨.or _ _, xynWord_of_and_F00F h, rfl⟩
  · exact ⟨.and _ _, xynWord_of_and_F00F h, rfl⟩
  · exact ⟨.xor _ _, xynWord_of_and_F00F h, rfl⟩
  · exact ⟨.addVxVy _ _, xynWord_of_and_F00F h, rfl⟩
  · exact ⟨.sub _ _, xynWord_of_and_F00F h, rfl⟩
  · exact ⟨.shr _ _, xynWord_of_and_F00F h, rfl⟩
  · exact ⟨.subn _ _, xynWord_of_and_F00F h, rfl⟩
  · exact ⟨.shl _ _, xynWord_of_and_F00F h, rfl⟩
  · exact ⟨.sneVxVy _ _, xynWord_of_and_F00F h, rfl⟩
  · exact ⟨.ldINnn _, nnnWord_of_and_F000 h, rfl⟩
  · exact ⟨.jpV0 _, nnnWord_of_and_F000 h, rfl⟩
  · exact ⟨.rnd _ _, xnnWord_of_and_F000 h, rfl⟩
  · exact ⟨.drw _ _ _, xynWord_of_and_F000 h, rfl⟩
  · exact ⟨.skp _, xnnWord_of_and_F0FF h, rfl⟩
  · exact ⟨.sknp _, xnnWord_of_and_F0FF h, rfl⟩
  · exact ⟨.ldVxDt _, xnnWord_of_and_F0FF h, rfl⟩
  · exact ⟨.ldVxK _, xnnWord_of_and_F0FF h, rfl⟩
  · exact ⟨.ldDtVx _, xnnWord_of_and_F0FF h, rfl⟩
  · exact ⟨.ldStVx _, xnnWord_of_and_F0FF h, rfl⟩
  · exact ⟨.addIVx _, xnnWord_of_and_F0FF h, rfl⟩
  · exact ⟨.ldFVx _, xnnWord_of_and_F0FF h, rfl⟩
  · exact ⟨.ldBVx _, xnnWord_of_and_F0FF h, rfl⟩
  · exact ⟨.ldMemVx _, xnnWord_of_and_F0FF h, rfl⟩
  · exact ⟨.ldVxMem _, xnnWord_of_and_F0FF h, rfl⟩

/-- R74: every instruction's word matches the row of its mnemonic. -/
theorem exists_row_matches_encode (i : Instr) : Laws.EncodingRow.Statement i := by
  cases i with
  | cls => exact Laws.EncodingRow.cls
  | ret => exact Laws.EncodingRow.ret
  | jp nnn => exact Laws.EncodingRow.jp nnn
  | call nnn => exact Laws.EncodingRow.call nnn
  | seVxNn x nn => exact Laws.EncodingRow.seVxNn x nn
  | sneVxNn x nn => exact Laws.EncodingRow.sneVxNn x nn
  | seVxVy x y => exact Laws.EncodingRow.seVxVy x y
  | ldVxNn x nn => exact Laws.EncodingRow.ldVxNn x nn
  | addVxNn x nn => exact Laws.EncodingRow.addVxNn x nn
  | ldVxVy x y => exact Laws.EncodingRow.ldVxVy x y
  | or x y => exact Laws.EncodingRow.or x y
  | and x y => exact Laws.EncodingRow.and x y
  | xor x y => exact Laws.EncodingRow.xor x y
  | addVxVy x y => exact Laws.EncodingRow.addVxVy x y
  | sub x y => exact Laws.EncodingRow.sub x y
  | shr x y => exact Laws.EncodingRow.shr x y
  | subn x y => exact Laws.EncodingRow.subn x y
  | shl x y => exact Laws.EncodingRow.shl x y
  | sneVxVy x y => exact Laws.EncodingRow.sneVxVy x y
  | ldINnn nnn => exact Laws.EncodingRow.ldINnn nnn
  | jpV0 nnn => exact Laws.EncodingRow.jpV0 nnn
  | rnd x nn => exact Laws.EncodingRow.rnd x nn
  | drw x y n => exact Laws.EncodingRow.drw x y n
  | skp x => exact Laws.EncodingRow.skp x
  | sknp x => exact Laws.EncodingRow.sknp x
  | ldVxDt x => exact Laws.EncodingRow.ldVxDt x
  | ldVxK x => exact Laws.EncodingRow.ldVxK x
  | ldDtVx x => exact Laws.EncodingRow.ldDtVx x
  | ldStVx x => exact Laws.EncodingRow.ldStVx x
  | addIVx x => exact Laws.EncodingRow.addIVx x
  | ldFVx x => exact Laws.EncodingRow.ldFVx x
  | ldBVx x => exact Laws.EncodingRow.ldBVx x
  | ldMemVx x => exact Laws.EncodingRow.ldMemVx x
  | ldVxMem x => exact Laws.EncodingRow.ldVxMem x

/-- R74: no mnemonic stands in two rows. -/
theorem opcodeRow_eq_of_mnemonic_eq :
    ∀ r ∈ opcodeRows, ∀ r' ∈ opcodeRows, r.mnemonic = r'.mnemonic → r = r' := by
  decide

/-- R74: a word matches a row exactly when it decodes to an instruction of the row: the decoder reads the row's
instruction back from the word, and an instruction's word matches its own row only. -/
theorem matches_iff_decode {r : OpcodeRow} (hr : r ∈ opcodeRows) (w : Word) :
    r.Matches w ↔ ∃ i, decode w = .instr i ∧ mnemonicOf i = r.mnemonic := by
  constructor
  · intro h
    obtain ⟨i, rfl, hi⟩ := exists_encode_of_matches hr h
    exact ⟨i, decode_encode i, hi⟩
  · rintro ⟨i, hd, hi⟩
    obtain ⟨r', hr', hmn, hm⟩ := exists_row_matches_encode i
    cases opcodeRow_eq_of_mnemonic_eq r' hr' r hr (hmn.trans hi)
    exact encode_of_decode hd ▸ hm

/-- R74: a word that matches no row is Unknown: the word of an instruction matches a row. -/
theorem decode_of_forall_not_matches {w : Word} (h : ∀ r ∈ opcodeRows, ¬ r.Matches w) : decode w = .unknown w := by
  cases hd : decode w with
  | unknown w' => rw [decode_unknown_word w w' hd]
  | instr i =>
    obtain ⟨r, hr, -, hm⟩ := exists_row_matches_encode i
    exact absurd (encode_of_decode hd ▸ hm) (h r hr)

/-- Settles O3, by the two directions between the rows and the instructions. -/
theorem decoderFollowsOpcodeMap : Obligations.DecoderFollowsOpcodeMap :=
  ⟨fun w _ hr => matches_iff_decode hr w, fun _ => decode_of_forall_not_matches⟩

/-! ### The illegal words -/

section
variable {w : Word}

/-- R76: the Unknown words of family 0x0. -/
theorem decodeFamily0_eq_unknown_iff : decodeFamily0 w = .unknown w ↔ w ≠ 0x00E0#16 ∧ w ≠ 0x00EE#16 := by
  unfold decodeFamily0
  split_ifs <;> simp [*]

/-- R76: the n of family 0x8 that are listed as illegal are those of no instruction. -/
theorem mem_illegalNs_iff : ∀ n : Nibble, n ∈ [0x8#4, 0x9#4, 0xA#4, 0xB#4, 0xC#4, 0xD#4, 0xF#4] ↔
    n ∉ [0x0#4, 0x1#4, 0x2#4, 0x3#4, 0x4#4, 0x5#4, 0x6#4, 0x7#4, 0xE#4] := by
  decide

/-- R76: the Unknown words of family 0x8. -/
theorem decodeFamily8_eq_unknown_iff : decodeFamily8 (fieldsOf w) w = .unknown w ↔
    (fieldsOf w).n ∈ [0x8#4, 0x9#4, 0xA#4, 0xB#4, 0xC#4, 0xD#4, 0xF#4] := by
  rw [mem_illegalNs_iff]
  unfold decodeFamily8
  split
  case h_10 => simp only [List.mem_cons, List.not_mem_nil, or_false, not_or]; tauto
  all_goals simp [*]

/-- R76: the Unknown words of family 0xE. -/
theorem decodeFamilyE_eq_unknown_iff : decodeFamilyE (fieldsOf w) w = .unknown w ↔
    (fieldsOf w).nn ∉ [0x9E#8, 0xA1#8] := by
  unfold decodeFamilyE
  split
  case h_3 => simp only [List.mem_cons, List.not_mem_nil, or_false, not_or]; tauto
  all_goals simp [*]

/-- R76: the Unknown words of family 0xF. -/
theorem decodeFamilyF_eq_unknown_iff : decodeFamilyF (fieldsOf w) w = .unknown w ↔
    (fieldsOf w).nn ∉ [0x07#8, 0x0A#8, 0x15#8, 0x18#8, 0x1E#8, 0x29#8, 0x33#8, 0x55#8, 0x65#8] := by
  unfold decodeFamilyF
  split
  case h_10 => simp only [List.mem_cons, List.not_mem_nil, or_false, not_or]; tauto
  all_goals simp [*]

end

/-- R70: a family is one of sixteen. -/
theorem family_mem : ∀ f : Nibble, f ∈ [0x0#4, 0x1#4, 0x2#4, 0x3#4, 0x4#4, 0x5#4, 0x6#4, 0x7#4, 0x8#4, 0x9#4, 0xA#4,
    0xB#4, 0xC#4, 0xD#4, 0xE#4, 0xF#4] := by
  decide

/-- Settles O4, arm by arm of the decoder: the families 0x0, 0x8, 0xE and 0xF by the lemmas above, 0x5 and 0x9 by their
check of n; the other families are instructions throughout, and a seventeenth does not exist. -/
theorem illegalWordsAreUnknown : Obligations.IllegalWordsAreUnknown := by
  intro w
  unfold decode IllegalWord
  simp only
  split
  case h_1 hf => simp [hf, decodeFamily0_eq_unknown_iff]
  case h_6 hf | h_10 hf => split_ifs with hn <;> simp [hf, hn]
  case h_9 hf => simp [hf, decodeFamily8_eq_unknown_iff]
  case h_15 hf => simp [hf, decodeFamilyE_eq_unknown_iff]
  case h_16 hf => simp [hf, decodeFamilyF_eq_unknown_iff]
  case h_17 =>
    have hmem := family_mem (fieldsOf w).family
    simp only [List.mem_cons, List.not_mem_nil, or_false] at hmem
    tauto
  all_goals
    next hf => simp [hf]

end Sys2Proof.Machine
end

section
/-! The timers, the key levels and the latch (60_exceptions.md): ticks, `setKey`, the key wait, and the Halted state
under every host operation but reset. -/

namespace Sys2Proof.Machine

/-! ### Halted -/

/-- R283: what every host operation of a run keeps, the run keeps. -/
theorem runOps_keeps_of_mem {P : State → Prop} {ops : List HostOp}
    (hop : ∀ s, ∀ op ∈ ops, P s → P (HostOp.apply s op)) {s : State} (hs : P s) : P (runOps s ops) :=
  List.foldlRecOn ops HostOp.apply hs fun s hs op hmem => hop s op hmem hs

/-- R96, R234: in Halted, no host operation but reset changes the mode. -/
theorem hostOp_apply_mode_of_isHalted {s : State} (hs : s.mode.isHalted = true) {op : HostOp} (hop : op ≠ .reset) :
    (HostOp.apply s op).mode = s.mode := by
  cases op with
  | step => rw [hostOp_apply_step (step_of_isHalted hs)]
  | tickTimers | setKey => rfl
  | reset => exact absurd rfl hop
  | load rom =>
    simp only [HostOp.apply]
    split
    next t h => rw [State.eq_writeBytesAt_of_load h, State.writeBytesAt_mode]
    next => rfl

/-- Settles O10, by induction on the host operations: the mode stays what it was, so it stays Halted. -/
theorem onlyResetLeavesHalted : Obligations.OnlyResetLeavesHalted := by
  refine fun s hs => ⟨step_of_isHalted hs, fun ops hops => ?_⟩
  refine runOps_keeps_of_mem (P := fun t => t.mode = s.mode) (fun t op hop ht => ?_) rfl
  have hhalted : t.mode.isHalted = true := ht ▸ hs
  exact (hostOp_apply_mode_of_isHalted hhalted fun h => hops (h ▸ hop)).trans ht

/-! ### Ticks -/

/-- R240: a tick lowers a timer by 1, with a floor at 0. -/
theorem countDown_toNat (y : Byte) : (countDown y).toNat = y.toNat - 1 := by
  unfold countDown
  split
  next h => simp [h]
  next h => bv_omega

/-- R240: a tick changes only the timers. -/
theorem State.tickTimers_changesOnly (s : State) : ChangesOnly s s.tickTimers [.dt, .st] :=
  (s.setDt_changesOnly _).trans (State.setSt_changesOnly _ _)

/-- Settles O20, by induction on the number of ticks. -/
theorem ticksCountDown : Obligations.TicksCountDown := by
  intro s n
  induction n generalizing s with
  | zero => exact ⟨rfl, rfl, ChangesOnly.refl s _⟩
  | succ n ih =>
    obtain ⟨hdt, hst, hframe⟩ := ih s.tickTimers
    have hdt₁ : s.tickTimers.dt.toNat = s.dt.toNat - 1 := countDown_toNat s.dt
    have hst₁ : s.tickTimers.st.toNat = s.st.toNat - 1 := countDown_toNat s.st
    refine ⟨hdt.trans ?_, hst.trans ?_, s.tickTimers_changesOnly.trans_same hframe⟩
    · rw [hdt₁]; omega
    · rw [hst₁]; omega

/-! ### `setKey` and the key wait -/

section
variable {s : State}

/-- R242: an edge is taken exactly while a key is awaited and none is latched, when the key goes down. -/
theorem State.takesEdge_iff {code : Nibble} {pressed : Bool} : s.takesEdge code pressed = true ↔
    s.mode.isAwaiting = true ∧ s.edge = none ∧ pressed = true ∧ s.keyDown code = false := by
  unfold State.takesEdge
  cases s.mode <;> cases s.edge <;> simp [Mode.isAwaiting]

/-- R241: what `setKey` makes of the key levels. -/
theorem State.keyDown_setKey (code k : Nibble) (pressed : Bool) :
    (s.setKey code pressed).keyDown k = if k = code then pressed else s.keyDown k :=
  s.keyDown_setKeyLevel code k pressed

/-- R242: what `setKey` makes of the latch. -/
theorem State.edge_setKey (code : Nibble) (pressed : Bool) :
    (s.setKey code pressed).edge = if s.takesEdge code pressed then some code else s.edge := rfl

/-- R98: a step of the key wait with the edge `k` latched. -/
theorem step_of_awaitingKey_of_edge_eq_some {x k : Nibble} (hm : s.mode = .awaitingKey x) (he : s.edge = some k) :
    step s = .next (((s.setReg x (k.setWidth 8)).advance.setMode .running).setEdge none) := by
  rw [step_of_awaitingKey hm, State.continueKeyWait, he]

end

/-- Settles O21: the latch takes the code when `takesEdge` says so, and `takesEdge` is the conjunction. -/
theorem setKeyLatchesFirstEdge : Obligations.SetKeyLatchesFirstEdge := by
  intro s code pressed
  refine ⟨?_, fun k hk => ?_, fun h => ?_, fun h => ?_, ?_⟩
  · rw [State.keyDown_setKey, if_pos rfl]
  · rw [State.keyDown_setKey, if_neg hk]
  · rw [State.edge_setKey, if_pos (State.takesEdge_iff.2 h)]
  · rw [State.edge_setKey, if_neg (mt State.takesEdge_iff.1 h)]
  · exact (s.setKeyLevel_changesOnly code pressed).trans (State.setEdge_changesOnly _ _)

/-- Settles O11: the next state is the one of `step_of_awaitingKey_of_edge_eq_some`. -/
theorem keyWaitResolution : Obligations.KeyWaitResolution := by
  intro s x k hm he
  refine ⟨_, step_of_awaitingKey_of_edge_eq_some hm he, ?_, (s.setReg x _).advance_pcAdvanced, rfl, rfl, ?_⟩
  · simp; omega
  · exact (((s.setReg_changesOnly x _).trans (State.advance_changesOnly _)).trans
      (State.setMode_changesOnly _ _)).trans (State.setEdge_changesOnly _ _)

/-- Settles O22: the press latches the key, the release leaves the latch, and the step resolves the wait. -/
theorem pressAndReleaseResolveTheWait : Obligations.PressAndReleaseResolveTheWait := by
  intro s x k hm he hk
  let p := (s.setKey k true).setKey k false
  have hpress : (s.setKey k true).edge = some k := by
    rw [State.edge_setKey, if_pos (State.takesEdge_iff.2 ⟨by rw [hm]; rfl, he, rfl, hk⟩)]
  have hedge : p.edge = some k := by
    rw [State.edge_setKey, if_neg, hpress]
    simp [State.takesEdge_iff]
  obtain ⟨t, hstep, hreg, hpc, hmode, hlatch, hframe⟩ := keyWaitResolution p x k hm hedge
  have hrun : runOps s [.setKey k true, .setKey k false, .step] = t := hostOp_apply_step hstep
  have hkeys : t.key = p.key := hframe .keys (by simp)
  rw [hrun]
  refine ⟨hreg, hpc, hmode, hlatch, ?_⟩
  rw [State.keyDown, hkeys]
  exact (State.keyDown_setKey k k false).trans (if_pos rfl)

end Sys2Proof.Machine
end

section
/-! Construction, `reset()` and `load` (70_reset_and_hazards.md), and a fetch at the last address (20_memory.md). -/

namespace Sys2Proof.Machine

/-! ### Construction -/

/-- R20: every register of a cleared file is 0. -/
theorem State.reg_of_v_eq_replicate {s : State} (h : s.v = Vector.replicate 16 0) (x : Nibble) : s.reg x = 0 := by
  simp [State.reg, h]

/-- R29: every pixel of a state with the blank display is 0. -/
theorem State.pix_of_disp_eq_blankDisplay {s : State} (h : s.disp = blankDisplay) (c : Fin 64) (r : Fin 32) :
    s.pix c r = false := by
  rw [State.pix, h, get_blankDisplay]

/-- Settles O15: the memory of the construction state lists nothing, so it reads as the font and 0, and its vectors hold
one value throughout. -/
theorem constructionValues : Obligations.ConstructionValues := by
  refine ⟨fun a h => dif_pos h, fun a h => dif_neg (Nat.not_lt.2 h), State.reg_of_v_eq_replicate rfl, rfl, rfl, rfl,
    rfl, rfl, State.pix_of_disp_eq_blankDisplay rfl, fun k => ?_, rfl, rfl⟩
  simp [State.keyDown, State.reset]

/-- Settles O17: the fetch at 0x200 reads two bytes that are 0, and the word 0x0000 is Unknown. -/
theorem unloadedMachineHalts : Obligations.UnloadedMachineHalts := by
  have hfetch : State.reset.fetch = some 0x0000#16 := by decide
  exact step_of_unknown rfl hfetch (by decide)

/-! ### Bytes written from an address on -/

section
variable {s : State} {a : Nat} {ys : List Byte}

/-- R58: the k-th byte written reads back. -/
theorem State.readByte_writeBytesAt_add (hm : Memory.wf s.cfg.font s.mem) (ha : a + ys.length ≤ memSize) {k : Nat}
    (hk : k < ys.length) : (s.writeBytesAt a ys).readByte (a + k) = ys[k] := by
  have hin : a ≤ a + k ∧ a + k < a + ys.length := by omega
  simp only [s.readByte_writeBytesAt a ys hm ha, dif_pos hin, Nat.add_sub_cancel_left]

/-- R58: a byte outside of the range written is left. -/
theorem State.readByte_writeBytesAt_of_not_mem (hm : Memory.wf s.cfg.font s.mem) (ha : a + ys.length ≤ memSize)
    {b : Nat} (hb : ¬ (a ≤ b ∧ b < a + ys.length)) : (s.writeBytesAt a ys).readByte b = s.readByte b := by
  rw [s.readByte_writeBytesAt a ys hm ha, dif_neg hb]

/-- R58: bytes written from an address on change only these bytes. -/
theorem State.writeBytesAt_changesOnly (hm : Memory.wf s.cfg.font s.mem) (ha : a + ys.length ≤ memSize) :
    ChangesOnly s (s.writeBytesAt a ys) ((List.range ys.length).map fun k => .mem (a + k)) := by
  intro p hp
  cases p
  case mem b =>
    refine State.readByte_writeBytesAt_of_not_mem hm ha fun hb => hp ?_
    exact List.mem_map.2 ⟨b - a, List.mem_range.2 (by omega), by rw [Nat.add_sub_cancel' hb.1]⟩
  all_goals simp [SamePiece, State.reg]

end

/-- Settles O18: `load` writes the bytes of the ROM from 0x200 on. -/
theorem loadWritesTheRom : Obligations.LoadWritesTheRom := by
  intro s rom hm hlen
  have hfits : 0x200 + rom.length ≤ memSize := by simp only [memSize]; omega
  have hload : s.load rom = .ok (s.writeBytesAt 0x200 rom) := if_pos hlen
  exact ⟨_, hload, fun k hk => State.readByte_writeBytesAt_add hm hfits hk, State.writeBytesAt_changesOnly hm hfits⟩

/-! ### Reset -/

/-- R276: the bytes of the font in address order are those of its glyphs, one after another. -/
theorem fontBytes_eq_toList_flatten (font : Font) : fontBytes font = font.flatten.toList := by
  simp only [fontBytes, Vector.flatten, Vector.toList, List.flatMap_def, Array.toList_flatten, Array.toList_map,
    List.map_map]
  rfl

/-- R276: byte `a` of the font. -/
theorem fontBytes_getElem (font : Font) {a : Nat} (h : a < 80) :
    (fontBytes font)[a]'(by simpa using h) = fontByte font a h := by
  simp only [fontBytes_eq_toList_flatten, Vector.getElem_toList, Vector.getElem_flatten, fontByte]

/-- R271: memory after `reset()` is memory with the font written from 0 on. -/
theorem State.resetPort_readByte (s : State) (a : Nat) :
    s.resetPort.readByte a = (s.writeBytesAt 0 (fontBytes s.cfg.font)).readByte a := rfl

/-- Settles O16: `reset()` writes the 80 bytes of the font from 0 on, and sets or keeps the other fields. -/
theorem resetPortValues : Obligations.ResetPortValues := by
  intro s hm
  have hfits : 0 + (fontBytes s.cfg.font).length ≤ memSize := by simp [memSize]
  refine ⟨fun a h => ?_, State.reg_of_v_eq_replicate rfl, rfl, rfl, rfl, rfl, rfl,
    State.pix_of_disp_eq_blankDisplay rfl, rfl, rfl, fun a h => ?_, ?_, ?_⟩
  · have hread := State.readByte_writeBytesAt_add hm hfits (k := a) (by simpa using h)
    rw [Nat.zero_add] at hread
    rw [State.resetPort_readByte, hread, fontBytes_getElem _ h]
  · rw [State.resetPort_readByte, State.readByte_writeBytesAt_of_not_mem hm hfits (by simp; omega)]
  · exact s.writeBytesAt_key 0 _
  · exact s.writeBytesAt_cfg 0 _

/-! ### A fetch at the last address -/

/-- Settles O8: 0xFFF is its own address, and 0x1000 is 0x000 under wrap and none under halt. -/
theorem fetchAtTheLastAddress : Obligations.FetchAtTheLastAddress := by
  intro s hm hpc
  refine ⟨fun hw => ?_, fun hh => ?_⟩
  · rw [State.fetch_eq, if_pos (.inl hw), hpc]
    rfl
  · have hfetch : s.fetch = none := by rw [State.fetch_eq, if_neg (by simp [hh, hpc])]
    rw [step_of_fetch_eq_none hm hfetch, ← hpc]
    rfl

end Sys2Proof.Machine
end

section
/-! Which instructions write I and VF (10_state.md R21, R24), and which halt, with which reason (R230). -/

namespace Sys2Proof.Machine

/-! ### I -/

/-- R24: only ANNN, FX1E and FX29 write I. -/
theorem Effect.i_eq {s t : State} {i : Instr} (h : Effect s i t) (hld : ∀ nnn, i ≠ .ldINnn nnn)
    (hadd : ∀ x, i ≠ .addIVx x) (hfont : ∀ x, i ≠ .ldFVx x) : t.i = s.i := by
  cases h
  case ldINnn nnn => exact absurd rfl (hld nnn)
  case addIVx x _ _ => exact absurd rfl (hadd x)
  case ldFVx x _ => exact absurd rfl (hfont x)
  all_goals simp

/-- Settles O30: among the effects of instructions only those of ANNN, FX1E and FX29 write I. -/
theorem onlyThreeInstructionsWriteI : Obligations.OnlyThreeInstructionsWriteI := by
  intro s t h hld hadd hfont
  exact step_leaves State.i h (by simp) (by simp) fun i hf he => he.i_eq (fun nnn hi => hld nnn (hi ▸ hf))
    (fun x hi => hadd x (hi ▸ hf)) fun x hi => hfont x (hi ▸ hf)

/-! ### VF -/

section
variable {s t : State}

/-- R20: an instruction that only writes Vx leaves VF when x is not F. -/
theorem State.reg_vf_of_moveResult {x : Nibble} {y : Byte} (h : s.moveResult x y = .next t) (hx : x ≠ vf) :
    t.reg vf = s.reg vf := by
  cases h
  rw [State.advance_reg, State.reg_setReg, if_neg hx.symm]

/-- R165: FX65 leaves VF when x is not F: it loads V0..Vx. -/
theorem reg_vf_of_execLdVxMem {x : Nibble} (h : execLdVxMem x s = .next t) (hx : x ≠ vf) : t.reg vf = s.reg vf := by
  have hlt : x.toNat < vf.toNat := by simp only [vf] at *; bv_omega
  obtain ⟨-, he⟩ | ⟨-, he⟩ := execLdVxMem_cases x s <;> cases he.symm.trans h
  · rfl
  · rw [State.advance_reg, State.reg_loadRegs _ _ _ (by simp; omega), dif_neg (by simp; omega)]

/-- R163, R164: a store leaves the registers. -/
theorem State.reg_of_storeAtI {i : Instr} {ys : List Byte} (h : s.storeAtI i ys = .next t) (x : Nibble) :
    t.reg x = s.reg x := by
  obtain ⟨-, he⟩ | ⟨-, he⟩ := s.storeAtI_cases i ys <;> cases he.symm.trans h
  · rfl
  · simp

/-- R161: FX1E leaves VF unless `P_FX1E_VF` is overflow. -/
theorem reg_vf_of_execAddIVx {x : Nibble} (h : execAddIVx x s = .next t) (hcfg : s.cfg.fx1eVf ≠ .overflow) :
    t.reg vf = s.reg vf := by
  cases h
  rw [State.advance_reg, State.reg_setFlag, if_pos rfl, State.vfAfterAddI]
  split
  next => rfl
  next ho => exact absurd ho hcfg

end

/-- Settles O32, instruction by instruction. -/
theorem vfIsWrittenOnlyByDesignatedInstructions : Obligations.VfIsWrittenOnlyByDesignatedInstructions := by
  intro i s t h hmay
  cases i with
  | ldVxNn | addVxNn | ldVxVy | or | and | xor | ldVxDt =>
    exact State.reg_vf_of_moveResult h (by simpa [MayWriteVf] using hmay)
  | rnd x nn =>
    exact State.reg_vf_of_moveResult (s := s.setDraws (s.draws + 1)) h (by simpa [MayWriteVf] using hmay)
  | ldVxMem x => exact reg_vf_of_execLdVxMem h (by simpa [MayWriteVf] using hmay)
  | addIVx x => exact reg_vf_of_execAddIVx h (by simpa [MayWriteVf] using hmay)
  | ldBVx | ldMemVx => exact State.reg_of_storeAtI h vf
  | addVxVy | sub | shr | subn | shl | drw => exact absurd (by simp [MayWriteVf]) hmay
  | ret =>
    by_cases h0 : s.sp.val = 0
    · cases (execRet_of_eq_zero h0).symm.trans h; rfl
    · cases (execRet_of_ne_zero h0).symm.trans h; rfl
  | call nnn =>
    by_cases hlt : s.sp.val < 16
    · cases (execCall_of_lt nnn hlt).symm.trans h; rfl
    · cases (execCall_of_not_lt nnn hlt).symm.trans h; rfl
  | skp x => obtain ⟨-, he⟩ | ⟨k, -, he⟩ := execSkp_cases x s <;> cases he.symm.trans h <;> rfl
  | sknp x => obtain ⟨-, he⟩ | ⟨k, -, he⟩ := execSknp_cases x s <;> cases he.symm.trans h <;> rfl
  | cls | jp | jpV0 | seVxNn | sneVxNn | seVxVy | sneVxVy | ldINnn | ldFVx | ldVxK | ldDtVx | ldStVx => cases h; rfl

/-! ### Halts -/

section
variable {s : State} {r : HaltReason} {x y n : Nibble}

/-- R51: `n` addresses from I on are not usable when the last of them is past 0xFFF under `P_ADDR_OVERFLOW` = halt. -/
theorem not_indexInRange_iff {k : Nat} :
    ¬ IndexInRange s k ↔ s.cfg.addrOverflow = .halt ∧ 1 ≤ k ∧ s.i.toNat + k - 1 > 0xFFF := by
  cases hc : s.cfg.addrOverflow
  · simp [hc]
  · simp [hc]; omega

/-- R200: no key has the index Vx exactly when Vx is above 0xF under `P_KEY_INDEX` = halt. -/
theorem State.keyIndex_eq_none_iff {v : Byte} : s.keyIndex v = none ↔ s.cfg.keyIndex = .halt ∧ v.toNat > 0xF := by
  rw [State.keyIndex_eq]
  cases s.cfg.keyIndex <;> simp

/-- R163: when FX33 halts. -/
theorem haltsWith_ldBVx : HaltsWith s (.ldBVx x) r ↔ r = .addressOutOfRange ∧ ¬ IndexInRange s 3 := by
  rw [not_indexInRange_iff]
  simp [HaltsWith]

/-- R164: when FX55 halts. -/
theorem haltsWith_ldMemVx :
    HaltsWith s (.ldMemVx x) r ↔ r = .addressOutOfRange ∧ ¬ IndexInRange s (x.toNat + 1) := by
  rw [not_indexInRange_iff]
  simp [HaltsWith]

/-- R165: when FX65 halts. -/
theorem haltsWith_ldVxMem :
    HaltsWith s (.ldVxMem x) r ↔ r = .addressOutOfRange ∧ ¬ IndexInRange s (x.toNat + 1) := by
  rw [not_indexInRange_iff]
  simp [HaltsWith]

/-- R182: when DXYN halts. -/
theorem haltsWith_drw : HaltsWith s (.drw x y n) r ↔ r = .addressOutOfRange ∧ ¬ IndexInRange s n.toNat := by
  rw [not_indexInRange_iff]
  simp [HaltsWith]

/-- R201: when EX9E halts. -/
theorem haltsWith_skp : HaltsWith s (.skp x) r ↔ r = .keyIndexOutOfRange ∧ s.keyIndex (s.reg x) = none := by
  simp [HaltsWith, State.keyIndex_eq_none_iff]

/-- R202: when EXA1 halts. -/
theorem haltsWith_sknp : HaltsWith s (.sknp x) r ↔ r = .keyIndexOutOfRange ∧ s.keyIndex (s.reg x) = none := by
  simp [HaltsWith, State.keyIndex_eq_none_iff]

/-- R112: when CALL halts. -/
theorem haltsWith_call {nnn : Addr} : HaltsWith s (.call nnn) r ↔ r = .stackOverflow ∧ s.sp.val = 16 := by
  simp [HaltsWith]

/-- R110: when RET halts. -/
theorem haltsWith_ret : HaltsWith s .ret r ↔ r = .stackUnderflow ∧ s.sp.val = 0 := by
  simp [HaltsWith]

/-- R230: a halt ends in Halted with its own reason. -/
theorem exists_raiseHalt_mode_iff {r' : HaltReason} {w' : Option Word} :
    (∃ w p, (s.raiseHalt r' w').mode = .halted r w p) ↔ r = r' := by
  simp [eq_comm]

/-- R93: an engine state that is not Halted has no reason. -/
theorem not_exists_mode_of_not_isHalted {t : State} (h : t.mode.isHalted = false) :
    ¬ ∃ w p, t.mode = .halted r w p := by
  rintro ⟨w, p, ht⟩
  rw [ht] at h
  cases h

/-- R93, R230: an instruction that halts for the reason `r'` under the condition `C`, and else leaves the engine
Running, halts exactly as `HaltsWith` says. -/
theorem exists_mode_iff_haltsWith {t : State} {i : Instr} {r' : HaltReason} {C : Prop} (hm : s.mode = .running)
    (hw : HaltsWith s i r ↔ r = r' ∧ C)
    (ht : (C ∧ t = s.raiseHalt r' (some (encode i))) ∨ (¬ C ∧ t.mode = s.mode)) :
    (∃ w p, t.mode = .halted r w p) ↔ HaltsWith s i r := by
  rw [hw]
  obtain ⟨hc, rfl⟩ | ⟨hc, ht⟩ := ht
  · rw [exists_raiseHalt_mode_iff, and_iff_left hc]
  · exact iff_of_false (not_exists_mode_of_not_isHalted (by rw [ht, hm]; rfl)) fun h => hc h.2

end

/-- Settles O14: each instruction with a halting check halts for one reason under one condition, and the others neither
halt nor meet `HaltsWith`. -/
theorem haltReasonsAreExact : Obligations.HaltReasonsAreExact := by
  intro i s t r hm h
  cases i with
  | ret =>
    refine exists_mode_iff_haltsWith hm haltsWith_ret ?_
    by_cases h0 : s.sp.val = 0
    · cases (execRet_of_eq_zero h0).symm.trans h; exact .inl ⟨h0, rfl⟩
    · cases (execRet_of_ne_zero h0).symm.trans h; exact .inr ⟨h0, rfl⟩
  | call nnn =>
    refine exists_mode_iff_haltsWith hm haltsWith_call ?_
    by_cases hlt : s.sp.val < 16
    · cases (execCall_of_lt nnn hlt).symm.trans h; exact .inr ⟨by omega, rfl⟩
    · cases (execCall_of_not_lt nnn hlt).symm.trans h; exact .inl ⟨by omega, rfl⟩
  | drw x y n =>
    refine exists_mode_iff_haltsWith hm haltsWith_drw ?_
    obtain ⟨hr, he⟩ | ⟨hr, he⟩ := execDrw_cases x y n s <;> cases he.symm.trans h
    · exact .inl ⟨hr, rfl⟩
    · exact .inr ⟨not_not_intro hr, rfl⟩
  | skp x =>
    refine exists_mode_iff_haltsWith hm haltsWith_skp ?_
    obtain ⟨hk, he⟩ | ⟨k, hk, he⟩ := execSkp_cases x s <;> cases he.symm.trans h
    · exact .inl ⟨hk, rfl⟩
    · exact .inr ⟨by simp [hk], rfl⟩
  | sknp x =>
    refine exists_mode_iff_haltsWith hm haltsWith_sknp ?_
    obtain ⟨hk, he⟩ | ⟨k, hk, he⟩ := execSknp_cases x s <;> cases he.symm.trans h
    · exact .inl ⟨hk, rfl⟩
    · exact .inr ⟨by simp [hk], rfl⟩
  | ldBVx x =>
    refine exists_mode_iff_haltsWith hm haltsWith_ldBVx ?_
    obtain ⟨hr, he⟩ | ⟨hr, he⟩ := s.storeAtI_cases (.ldBVx x) (bcdDigits (s.reg x)) <;> cases he.symm.trans h
    · exact .inl ⟨hr, rfl⟩
    · exact .inr ⟨not_not_intro hr, by simp⟩
  | ldMemVx x =>
    refine exists_mode_iff_haltsWith hm haltsWith_ldMemVx ?_
    obtain ⟨hr, he⟩ | ⟨hr, he⟩ := s.storeAtI_cases (.ldMemVx x) (s.regRange x) <;> cases he.symm.trans h
    all_goals rw [State.regRange_length] at hr
    · exact .inl ⟨hr, rfl⟩
    · exact .inr ⟨not_not_intro hr, by simp⟩
  | ldVxMem x =>
    refine exists_mode_iff_haltsWith hm haltsWith_ldVxMem ?_
    obtain ⟨hr, he⟩ | ⟨hr, he⟩ := execLdVxMem_cases x s <;> cases he.symm.trans h
    · exact .inl ⟨hr, rfl⟩
    · exact .inr ⟨not_not_intro hr, by simp⟩
  | ldVxK x =>
    cases h
    exact iff_of_false (not_exists_mode_of_not_isHalted rfl) (by simp [HaltsWith])
  | cls | jp | jpV0 | seVxNn | sneVxNn | seVxVy | sneVxVy | ldVxNn | addVxNn | ldVxVy | or | and | xor | addVxVy | sub
  | shr | subn | shl | rnd | ldINnn | addIVx | ldFVx | ldVxDt | ldDtVx | ldStVx =>
    cases h
    exact iff_of_false (not_exists_mode_of_not_isHalted (by simp [hm, Mode.isHalted])) (by simp [HaltsWith])

end Sys2Proof.Machine
end

section
/-! Control flow (41_flow.md): CALL and RET together, JP V0, and the four skips; and the key skips and the key wait
(45_keypad.md). -/

namespace Sys2Proof.Machine

/-- R25, R112: the entry just pushed reads back. -/
theorem State.getElem_stack_setStackEntry_self (s : State) (k : Fin 16) (w : Word) :
    (s.setStackEntry k w).stack[k.val] = w :=
  Vector.getElem_set_self _

/-- Settles O37: the CALL pushes the call site + 2, and the RET pops that entry. -/
theorem callThenReturnComesBack : Obligations.CallThenReturnComesBack := by
  intro nnn s hsp
  let t := ((s.setStackEntry ⟨s.sp.val, hsp⟩ (low12 (s.pc.toNat + 2))).setSp
    ⟨s.sp.val + 1, by omega⟩).setPc nnn.toNat
  have hne : ¬ t.sp.val = 0 := Nat.succ_ne_zero _
  have htop : t.stack[t.sp.val - 1] = low12 (s.pc.toNat + 2) :=
    s.getElem_stack_setStackEntry_self ⟨s.sp.val, hsp⟩ _
  have hpc : (t.stack[t.sp.val - 1]).toNat % 0x1000 = (s.pc.toNat + 2) % 0x1000 := by
    rw [htop, low12_toNat, Nat.mod_mod]
  exact ⟨t, _, execCall_of_lt nnn hsp, execRet_of_ne_zero hne, (low12_toNat _).trans hpc, rfl⟩

/-- Settles O38: the next state is `s.setPc (nnn.toNat + (s.reg 0).toNat)`. -/
theorem jumpWithOffsetAddsV0 : Obligations.JumpWithOffsetAddsV0 :=
  fun _ s => ⟨_, rfl, low12_toNat _, s.setPc_changesOnly _⟩

/-! ### Skips -/

/-- R92: a skip advances PC by 4 or by 2, and leaves the rest. -/
theorem State.skipIf_spec (s : State) {c : Bool} {d : Nat} (hd : d = if c then 4 else 2) :
    ∃ t, (.next (s.skipIf c) : Result) = .next t ∧ PcAdvanced s t d ∧ ChangesOnly s t [.pc] :=
  ⟨_, rfl, hd ▸ low12_toNat _, s.skipIf_changesOnly c⟩

/-- Settles O39: each skip is `skipIf` of its condition as a Boolean. -/
theorem skipsAdvanceByFourOrTwo : Obligations.SkipsAdvanceByFourOrTwo := by
  refine fun x y nn s => ⟨s.skipIf_spec ?_, s.skipIf_spec ?_, s.skipIf_spec ?_, s.skipIf_spec ?_⟩ <;> simp

/-! ### Keys -/

/-- R200: the index of a key is the low nibble of Vx. -/
theorem State.keyIndex_eq_some {s : State} {v : Byte} {k : Nibble} (hk : k.toNat = v.toNat % 16)
    (h : s.cfg.keyIndex = .lowNibble ∨ v.toNat ≤ 0xF) : s.keyIndex v = some k := by
  have hlow : v.extractLsb' 0 4 = k := BitVec.eq_of_toNat_eq (by simp [hk])
  rw [State.keyIndex_eq, if_pos h, hlow]

/-- Settles O57: the index is Vx mod 16 or none, and each skip is then its own `skipIf` or halt. -/
theorem keySkipsFollowTheKeyLevel : Obligations.KeySkipsFollowTheKeyLevel := by
  refine fun x k s hk => ⟨fun h => ?_, fun hc hv => ?_⟩
  · have hidx : s.keyIndex (s.reg x) = some k := State.keyIndex_eq_some hk h
    simp only [exec, execSkp, execSknp, hidx]
    exact ⟨s.skipIf_spec rfl, s.skipIf_spec (by cases s.keyDown k <;> rfl)⟩
  · have hidx : s.keyIndex (s.reg x) = none := State.keyIndex_eq_none_iff.2 ⟨hc, hv⟩
    simp only [exec, execSkp, execSknp, hidx]
    exact ⟨rfl, rfl⟩

/-- Settles O58: the next state is `(s.setMode (.awaitingKey x)).setEdge none`. -/
theorem waitForKeySuspends : Obligations.WaitForKeySuspends :=
  fun _ s => ⟨_, rfl, rfl, rfl, (s.setMode_changesOnly _).trans (State.setEdge_changesOnly _ _)⟩

end Sys2Proof.Machine
end

section
/-! The operations with a flag (42_alu.md), RND, ADD I, Vx (43_index_memory.md) and the sound timer (46_timers.md). -/

namespace Sys2Proof.Machine

/-! ### Flags -/

/-- R142: a flag is 1 or 0 by its condition. -/
theorem flagByte_decide (p : Prop) [Decidable p] : flagByte (decide p) = if p then 1 else 0 := by
  simp [flagByte]

/-- R138: the bit shifted out on the right is the value mod 2. -/
theorem lsbFlag_toNat (v : Byte) : (lsbFlag v).toNat = v.toNat % 2 := by
  simp [lsbFlag, Nat.and_one_is_mod]

/-- R140: the bit shifted out on the left is the value above 0x7F. -/
theorem msbFlag_toNat (v : Byte) : (msbFlag v).toNat = v.toNat / 0x80 := by
  simp only [msbFlag, BitVec.toNat_and, BitVec.toNat_ushiftRight, Nat.shiftRight_eq_div_pow]
  simp [Nat.and_one_is_mod]
  omega

/-- R142, D7: what `aluResult` does: the result in Vx when x is not F, the flag in VF, PC advanced, the rest left. -/
theorem State.aluResult_spec (s : State) (x : Nibble) (v f : Byte) :
    ∃ t, s.aluResult x v f = .next t ∧ (x ≠ vf → t.reg x = v) ∧ t.reg vf = f ∧ PcAdvanced s t 2 ∧
      ChangesOnly s t [.reg x, .reg vf, .pc] := by
  refine ⟨_, rfl, fun hx => ?_, ?_, ((s.setReg x v).setFlag f).advance_pcAdvanced, ?_⟩
  · rw [State.advance_reg, State.reg_setFlag, if_neg hx, State.reg_setReg_self]
  · rw [State.advance_reg, State.reg_setFlag, if_pos rfl]
  · exact ((s.setReg_changesOnly x v).trans (State.setFlag_changesOnly _ f)).trans (State.advance_changesOnly _)

/-- R142: `aluResult_spec` for a result and a flag of which a property each is known. -/
theorem State.aluResult_of (s : State) (x : Nibble) (P Q : Byte → Prop) {v f : Byte} (hv : P v) (hf : Q f) :
    ∃ t, s.aluResult x v f = .next t ∧ (x ≠ vf → P (t.reg x)) ∧ Q (t.reg vf) ∧ PcAdvanced s t 2 ∧
      ChangesOnly s t [.reg x, .reg vf, .pc] := by
  obtain ⟨t, ht, hreg, hflag, hpc, hframe⟩ := s.aluResult_spec x v f
  exact ⟨t, ht, fun hx => (hreg hx).symm ▸ hv, hflag.symm ▸ hf, hpc, hframe⟩

/-- Settles O43: `aluResult` of the 8-bit sum and the carry. -/
theorem addWritesTheCarry : Obligations.AddWritesTheCarry :=
  fun x _ s => s.aluResult_of x (·.toNat = _) (· = _) (BitVec.toNat_add _ _) (flagByte_decide _)

/-- R137: the 8-bit difference is the difference mod 0x100. -/
theorem byte_sub_toNat (a b : Byte) : (a - b).toNat = (a.toNat + 0x100 - b.toNat) % 0x100 := by
  bv_omega

/-- Settles O44: `aluResult` of the 8-bit difference and the no-borrow flag. -/
theorem subtractWritesNoBorrow : Obligations.SubtractWritesNoBorrow :=
  fun x _ s =>
    ⟨s.aluResult_of x (·.toNat = _) (· = _) (byte_sub_toNat _ _) (flagByte_decide _),
      s.aluResult_of x (·.toNat = _) (· = _) (byte_sub_toNat _ _) (flagByte_decide _)⟩

/-- Settles O45: `aluResult` of the shifted value and the bit shifted out. -/
theorem shiftsWriteTheBitShiftedOut : Obligations.ShiftsWriteTheBitShiftedOut := by
  refine fun x y s =>
    ⟨s.aluResult_of x (·.toNat = _) (·.toNat = _) ?_ (lsbFlag_toNat _),
      s.aluResult_of x (·.toNat = _) (·.toNat = _) ?_ (msbFlag_toNat _)⟩
  · simp [Nat.shiftRight_eq_div_pow]
  · simp [Nat.shiftLeft_eq, Nat.mul_comm]

/-! ### RND -/

/-- R141: a byte masked by nn has no bit outside nn. -/
theorem and_and_not_eq_zero (v nn : Byte) : v &&& nn &&& ~~~nn = 0 := by
  rw [BitVec.and_assoc, BitVec.and_not_self]
  exact BitVec.and_zero

/-- Settles O46: `moveResult` of the masked draw, after the draw is counted. -/
theorem randomByteIsMasked : Obligations.RandomByteIsMasked := by
  intro x nn s
  obtain ⟨t, ht, hreg, hpc, hframe⟩ :=
    (s.setDraws (s.draws + 1)).moveResult_spec x (Config.draw s.draws &&& nn)
  have hdraws : t.draws = s.draws + 1 := hframe .draws (by simp)
  have hmask : t.reg x &&& ~~~nn = 0 := by rw [hreg, and_and_not_eq_zero]
  exact ⟨t, ht, hreg, hmask, hdraws, hpc, ((s.setDraws_changesOnly _).trans hframe).mono (by simp)⟩

/-! ### ADD I, Vx -/

/-- R21: writing to VF the value it has changes nothing. -/
theorem State.setFlag_eq_self {s : State} {f : Byte} (h : s.reg vf = f) : s.setFlag f = s := by
  subst h
  simp [State.setFlag, State.setReg, State.reg]

/-- Settles O48: I is reduced; under unchanged VF gets the value it has, and under overflow the flag. -/
theorem addToIndexWraps : Obligations.AddToIndexWraps := by
  intro x s
  let a := s.i.toNat + (s.reg x).toNat
  refine ⟨((s.setI a).setFlag (s.vfAfterAddI x)).advance, rfl, low12_toNat a, State.advance_pcAdvanced _,
    fun hc => ?_, fun hc => ⟨?_, ?_⟩⟩
  · have hvf : (s.setI a).reg vf = s.vfAfterAddI x := by rw [State.vfAfterAddI, hc]; rfl
    rw [State.setFlag_eq_self hvf]
    exact (s.setI_changesOnly a).trans (State.advance_changesOnly _)
  · have hvf : s.vfAfterAddI x = indexOverflowFlag s.i (s.reg x) := by rw [State.vfAfterAddI, hc]
    rw [State.advance_reg, State.reg_setFlag, if_pos rfl, hvf]
    exact flagByte_decide _
  · exact (((s.setI_changesOnly a).trans (State.setFlag_changesOnly _ _)).trans
      (State.advance_changesOnly _)).mono (by simp)

/-! ### The sound timer -/

/-- Settles O60: the next state is `(s.setSt (s.reg x)).advance`. -/
theorem soundTimerIsSet : Obligations.SoundTimerIsSet := by
  refine fun x s => ⟨_, rfl, rfl, ?_, (s.setSt (s.reg x)).advance_pcAdvanced, ?_⟩
  · simp [State.soundActive]
  · exact (s.setSt_changesOnly (s.reg x)).trans (State.advance_changesOnly _)

end Sys2Proof.Machine
end

section
/-! Memory through I (43_index_memory.md): the stores FX33 and FX55, the load FX65, a load after a store, and the halt
of a range that passes 0xFFF. -/

namespace Sys2Proof.Machine

/-! ### Stores -/

section
variable {s : State} {ys : List Byte}

/-- R51: an address formed from I is in the address space. -/
theorem indexAddr_lt (k : Nat) : indexAddr s k < memSize := Nat.mod_lt _ (by decide)

/-- The cells that a store at I writes. -/
def storedCells (s : State) (ys : List Byte) : List (Nat × Byte) :=
  ((List.range ys.length).map (indexAddr s)).zip ys

/-- R166: the addresses of these cells. -/
theorem storedCells_map_fst : (storedCells s ys).map Prod.fst = (List.range ys.length).map (indexAddr s) :=
  List.map_fst_zip (by simp)

/-- R166: the address of a cell that a store at I writes is `indexAddr` of a k below the number of bytes. -/
theorem exists_indexAddr_of_mem_storedCells {c : Nat × Byte} (hc : c ∈ storedCells s ys) :
    ∃ k < ys.length, indexAddr s k = c.1 := by
  have hfst : c.1 ∈ (storedCells s ys).map Prod.fst := List.mem_map_of_mem hc
  simpa [storedCells_map_fst] using hfst

/-- R51: they are in the address space. -/
theorem storedCells_lt : ∀ c ∈ storedCells s ys, c.1 < memSize := by
  intro c hc
  obtain ⟨k, -, hk⟩ := exists_indexAddr_of_mem_storedCells hc
  exact hk ▸ indexAddr_lt k

/-- R163, R164: the k-th byte stored is at I + k, when the store is not longer than the address space. -/
theorem readByte_writeCells_storedCells (hm : Memory.wf s.cfg.font s.mem) (hlen : ys.length ≤ 0x1000) {k : Nat}
    (hk : k < ys.length) : (s.writeCells (storedCells s ys)).readByte (indexAddr s k) = ys[k] := by
  have hnodup : ((storedCells s ys).map Prod.fst).Nodup := by
    rw [storedCells_map_fst]
    exact indexAddr_nodup s _ hlen
  have hmem : (indexAddr s k, ys[k]) ∈ storedCells s ys :=
    List.mem_iff_getElem.2 ⟨k, by simp [storedCells, hk], by simp [storedCells]⟩
  exact s.readByte_writeCells_of_mem _ hm storedCells_lt hnodup _ hmem

/-- R163, R164: a store at I changes only the bytes at I + k. -/
theorem writeCells_storedCells_changesOnly (hm : Memory.wf s.cfg.font s.mem) :
    ChangesOnly s (s.writeCells (storedCells s ys)) ((List.range ys.length).map fun k => .mem (indexAddr s k)) := by
  intro p hp
  cases p
  case mem b =>
    refine s.readByte_writeCells_of_not_mem _ hm storedCells_lt b fun c hc hb => hp ?_
    obtain ⟨k, hk, ha⟩ := exists_indexAddr_of_mem_storedCells hc
    exact List.mem_map.2 ⟨k, List.mem_range.2 hk, by rw [ha, hb]⟩
  all_goals simp [SamePiece]

/-- R163, R164: a store at I with usable addresses: the bytes at I + k, PC advanced, the rest left. -/
theorem State.storeAtI_spec {i : Instr} (hm : Memory.wf s.cfg.font s.mem) (hr : IndexInRange s ys.length)
    (hlen : ys.length ≤ 0x1000) :
    ∃ t, s.storeAtI i ys = .next t ∧ (∀ (k : Nat) (hk : k < ys.length), t.readByte (indexAddr s k) = ys[k]) ∧
      PcAdvanced s t 2 ∧ ChangesOnly s t (.pc :: (List.range ys.length).map fun k => .mem (indexAddr s k)) := by
  obtain ⟨hn, -⟩ | ⟨-, he⟩ := s.storeAtI_cases i ys
  · exact absurd hr hn
  · refine ⟨_, he, fun k hk => readByte_writeCells_storedCells hm hlen hk, ?_, ?_⟩
    · exact (State.advance_pcAdvanced _).trans (by rw [State.writeCells_pc])
    · refine ((writeCells_storedCells_changesOnly hm).trans (State.advance_changesOnly _)).mono ?_
      simp

end

/-- R163: the three digits of a byte give its value. -/
theorem bcdDigits_value (v : Byte) : v.toNat =
    100 * (BitVec.ofNat 8 (v.toNat / 100)).toNat + 10 * (BitVec.ofNat 8 (v.toNat / 10 % 10)).toNat +
      (BitVec.ofNat 8 (v.toNat % 10)).toNat := by
  simp only [BitVec.toNat_ofNat]
  omega

/-- Settles O49: a store of the three digits. -/
theorem decimalDigitsAreStored : Obligations.DecimalDigitsAreStored := by
  intro x s hm hr
  obtain ⟨t, ht, hread, hpc, hframe⟩ :=
    State.storeAtI_spec (ys := bcdDigits (s.reg x)) (i := .ldBVx x) hm hr (by simp [bcdDigits])
  have h0 : t.readByte (indexAddr s 0) = BitVec.ofNat 8 ((s.reg x).toNat / 100) := hread 0 (by simp [bcdDigits])
  have h1 : t.readByte (indexAddr s 1) = BitVec.ofNat 8 ((s.reg x).toNat / 10 % 10) := hread 1 (by simp [bcdDigits])
  have h2 : t.readByte (indexAddr s 2) = BitVec.ofNat 8 ((s.reg x).toNat % 10) := hread 2 (by simp [bcdDigits])
  refine ⟨t, ht, s.indexed_of_inRange 3 hr, ?_, ?_, ?_, hpc, hframe.mono ?_⟩
  · rw [h0, h1, h2]
    exact bcdDigits_value (s.reg x)
  · rw [h1, BitVec.toNat_ofNat]; omega
  · rw [h2, BitVec.toNat_ofNat]; omega
  · simp [bcdDigits, List.range_succ]

/-- R164: the k-th byte that FX55 stores is Vk. -/
theorem State.regRange_getElem (s : State) (x k : Nibble) (hk : k.toNat < (s.regRange x).length) :
    (s.regRange x)[k.toNat] = s.reg k := by
  simp [State.regRange]

/-- Settles O50: a store of V0..Vx. -/
theorem registersAreStored : Obligations.RegistersAreStored := by
  intro x s hm hr
  have hlen := s.regRange_length x
  rw [← hlen] at hr ⊢
  obtain ⟨t, ht, hread, hpc, hframe⟩ := State.storeAtI_spec (i := .ldMemVx x) hm hr (by omega)
  refine ⟨t, ht, s.indexed_of_inRange _ hr, fun k hk => ?_, hpc, hframe⟩
  rw [hread k.toNat (by omega), State.regRange_getElem]

/-! ### Loads -/

/-- R165: the registers that FX65 loads, as `reg_loadRegs` gives them, are the only pieces it changes. -/
theorem State.loadRegs_changesOnly (s : State) {ys : List Byte} (h : ys.length ≤ 16) :
    ChangesOnly s (s.loadRegs 0 ys) ((List.range ys.length).map fun k => .reg (BitVec.ofNat 4 k)) := by
  intro p hp
  cases p
  case reg z =>
    have hz : ¬ (0 ≤ z.toNat ∧ z.toNat < 0 + ys.length) := fun hz =>
      hp (List.mem_map.2 ⟨z.toNat, List.mem_range.2 (by omega), by simp⟩)
    exact (s.reg_loadRegs 0 ys (by omega) z).trans (dif_neg hz)
  all_goals simp [SamePiece]

/-- Settles O51: a load of V0..Vx. -/
theorem registersAreLoaded : Obligations.RegistersAreLoaded := by
  intro x s hr
  obtain ⟨hn, -⟩ | ⟨-, he⟩ := execLdVxMem_cases x s
  · exact absurd hr hn
  · refine ⟨_, he, fun k hk => ?_, ?_, ?_⟩
    · rw [State.advance_reg, State.reg_loadRegs _ _ _ (by simp; omega), dif_pos (by simp; omega)]
      simp
    · exact (State.advance_pcAdvanced _).trans (by rw [State.loadRegs_pc])
    · refine ((s.loadRegs_changesOnly (by simp; omega)).trans (State.advance_changesOnly _)).mono ?_
      simp

/-- Settles O52: the store leaves I and the parameters, so the load reads where it wrote. -/
theorem storeThenLoadRestoresTheRegisters : Obligations.StoreThenLoadRestoresTheRegisters := by
  intro x s v' hm hr
  obtain ⟨t, ht, -, hstored, -, hframe⟩ := registersAreStored x s hm hr
  have hi : t.i = s.i := hframe .i (by simp)
  have hcfg : t.cfg = s.cfg := hframe .cfg (by simp)
  have hr' : IndexInRange { t with v := v' } (x.toNat + 1) := by simpa only [IndexInRange, hi, hcfg] using hr
  obtain ⟨u, hu, hloaded, -, -⟩ := registersAreLoaded x { t with v := v' } hr'
  refine ⟨t, u, ht, hu, fun k hk => ?_⟩
  calc u.reg k
    _ = t.readByte (indexAddr t k.toNat) := hloaded k hk
    _ = t.readByte (indexAddr s k.toNat) := by rw [indexAddr, hi, indexAddr]
    _ = s.reg k := hstored k hk

/-! ### Ranges that pass 0xFFF -/

section
variable {s : State}

/-- R163, R164: a store whose range is not usable halts. -/
theorem State.storeAtI_of_not_inRange {i : Instr} {ys : List Byte} (h : ¬ IndexInRange s ys.length) :
    s.storeAtI i ys = .next (s.raiseHalt .addressOutOfRange (some (encode i))) :=
  ((s.storeAtI_cases i ys).resolve_right fun hr => h hr.1).2

/-- R165: a load whose range is not usable halts. -/
theorem execLdVxMem_of_not_inRange {x : Nibble} (h : ¬ IndexInRange s (x.toNat + 1)) :
    execLdVxMem x s = .next (s.raiseHalt .addressOutOfRange (some (encode (.ldVxMem x)))) :=
  ((execLdVxMem_cases x s).resolve_right fun hr => h hr.1).2

/-- R182: a draw whose range is not usable halts. -/
theorem execDrw_of_not_inRange {x y n : Nibble} (h : ¬ IndexInRange s n.toNat) :
    execDrw x y n s = .next (s.raiseHalt .addressOutOfRange (some (encode (.drw x y n)))) :=
  ((execDrw_cases x y n s).resolve_right fun hr => h hr.1).2

end

/-- Settles O53: under halt such a range is not usable. -/
theorem indexedAccessPastTheEndHalts : Obligations.IndexedAccessPastTheEndHalts := by
  intro x y n s hc
  refine ⟨fun h => ?_, fun h => ?_, fun hn h => ?_⟩
  · have hr : ¬ IndexInRange s 3 := not_indexInRange_iff.2 ⟨hc, by omega, by omega⟩
    exact State.storeAtI_of_not_inRange hr
  · have hr : ¬ IndexInRange s (x.toNat + 1) := not_indexInRange_iff.2 ⟨hc, by omega, by omega⟩
    exact ⟨State.storeAtI_of_not_inRange (by rwa [State.regRange_length]), execLdVxMem_of_not_inRange hr⟩
  · exact execDrw_of_not_inRange (not_indexInRange_iff.2 ⟨hc, hn, h⟩)

end Sys2Proof.Machine
end

section
/-! DRW (44_display.md): the pixels it flips, the collision, and a sprite drawn twice. -/

namespace Sys2Proof.Machine

section
variable {s : State} {x y n : Nibble}

/-- R182: the next state of a DRW with usable addresses. -/
def drawn (s : State) (x y n : Nibble) : State :=
  ((s.setDisp (blit s.disp (drawnPoints s x y n)).1).setFlag
    (flagByte (blit s.disp (drawnPoints s x y n)).2)).advance

/-- R182: a DRW with usable addresses answers `drawn`. -/
theorem execDrw_of_inRange (h : IndexInRange s n.toNat) : execDrw x y n s = .next (drawn s x y n) :=
  ((execDrw_cases x y n s).resolve_left fun hn => hn.1 h).2

/-- R180: a DRW flips the pixels of its points. -/
theorem get_disp_drawn (p : Point) :
    Display.get (drawn s x y n).disp p = (Display.get s.disp p ^^ decide (p ∈ drawnPoints s x y n)) :=
  get_blit s.disp _ (drawnPoints_nodup s x y n) p

/-- R182: a DRW flips a pixel that its sprite covers. -/
theorem pix_drawn_of_covers {c : Fin 64} {r : Fin 32} (h : SpriteCovers s x y n c r) :
    (drawn s x y n).pix c r = !s.pix c r := by
  rw [State.pix, get_disp_drawn, decide_eq_true ((mem_drawnPoints s x y n c r).2 h), Bool.xor_true, State.pix]

/-- R182: a DRW leaves a pixel that its sprite does not cover. -/
theorem pix_drawn_of_not_covers {c : Fin 64} {r : Fin 32} (h : ¬ SpriteCovers s x y n c r) :
    (drawn s x y n).pix c r = s.pix c r := by
  rw [State.pix, get_disp_drawn, decide_eq_false (mt (mem_drawnPoints s x y n c r).1 h), Bool.xor_false, State.pix]

/-- R182: the collision output of a DRW: a covered pixel was set. -/
theorem collided_drawnPoints_iff : (blit s.disp (drawnPoints s x y n)).2 = true ↔
    ∃ c r, SpriteCovers s x y n c r ∧ s.pix c r = true := by
  rw [collided_blit s.disp _ (drawnPoints_nodup s x y n), Prod.exists]
  simp only [mem_drawnPoints, State.pix]

/-- R182: VF after a DRW is the collision output as a flag. -/
theorem reg_vf_drawn : (drawn s x y n).reg vf = flagByte (blit s.disp (drawnPoints s x y n)).2 := by
  rw [drawn, State.advance_reg, State.reg_setFlag, if_pos rfl]

/-- R182: VF is 1 after a DRW exactly when a covered pixel was set. -/
theorem reg_vf_drawn_eq_one_iff :
    (drawn s x y n).reg vf = 1 ↔ ∃ c r, SpriteCovers s x y n c r ∧ s.pix c r = true := by
  rw [← collided_drawnPoints_iff, reg_vf_drawn]
  cases (blit s.disp (drawnPoints s x y n)).2 <;> decide

/-- R182: VF is 0 after a DRW when no covered pixel was set. -/
theorem reg_vf_drawn_of_not_set (h : ∀ c r, SpriteCovers s x y n c r → s.pix c r = false) :
    (drawn s x y n).reg vf = 0 := by
  have hcoll : ¬ (blit s.disp (drawnPoints s x y n)).2 = true := by
    rw [collided_drawnPoints_iff]
    rintro ⟨c, r, hcov, hset⟩
    simp [h c r hcov] at hset
  rw [reg_vf_drawn, Bool.eq_false_iff.2 hcoll]
  rfl

/-- R182: a DRW changes only the display, VF and PC. -/
theorem drawn_changesOnly : ChangesOnly s (drawn s x y n) [.disp, .reg vf, .pc] :=
  ((s.setDisp_changesOnly _).trans (State.setFlag_changesOnly _ _)).trans (State.advance_changesOnly _)

end

/-- Settles O55: the next state is `drawn s x y n`. -/
theorem drawFlipsTheCoveredPixels : Obligations.DrawFlipsTheCoveredPixels :=
  fun _ _ _ _ hr => ⟨_, execDrw_of_inRange hr, fun _ _ => pix_drawn_of_covers, fun _ _ => pix_drawn_of_not_covers,
    reg_vf_drawn_eq_one_iff.2, reg_vf_drawn_of_not_set, State.advance_pcAdvanced _, drawn_changesOnly⟩

/-! ### The same sprite again -/

section
variable {s : State} {x y n : Nibble}

/-- R182: a register other than VF is the same after a DRW. -/
theorem reg_drawn {z : Nibble} (hz : z ≠ vf) : (drawn s x y n).reg z = s.reg z :=
  drawn_changesOnly (.reg z) (by simp [hz])

/-- R182: the points of a DRW at the same coordinates are the same after a DRW, which leaves I, memory and the registers
other than VF. -/
theorem drawnPoints_drawn (hx : x ≠ vf) (hy : y ≠ vf) :
    drawnPoints (drawn s x y n) x y n = drawnPoints s x y n := by
  rw [drawnPoints, reg_drawn hx, reg_drawn hy]
  rfl

/-- R182: the sprite of the second DRW covers the same pixels. -/
theorem spriteCovers_drawn_iff (hx : x ≠ vf) (hy : y ≠ vf) {c : Fin 64} {r : Fin 32} :
    SpriteCovers (drawn s x y n) x y n c r ↔ SpriteCovers s x y n c r := by
  rw [← mem_drawnPoints, ← mem_drawnPoints, drawnPoints_drawn hx hy]

/-- R182: two equal DRWs flip every pixel twice or not at all. -/
theorem disp_drawn_drawn (hx : x ≠ vf) (hy : y ≠ vf) : (drawn (drawn s x y n) x y n).disp = s.disp := by
  refine Display.ext_get _ _ fun p => ?_
  rw [get_disp_drawn, get_disp_drawn, drawnPoints_drawn hx hy, Bool.xor_assoc, Bool.xor_self, Bool.xor_false]

/-- R182: on a blank display the pixels set after a DRW are those its sprite covers. -/
theorem pix_drawn_of_blank (hb : s.disp = blankDisplay) {c : Fin 64} {r : Fin 32} (h : SpriteCovers s x y n c r) :
    (drawn s x y n).pix c r = true := by
  rw [pix_drawn_of_covers h, State.pix_of_disp_eq_blankDisplay hb, Bool.not_false]

end

/-- Settles O56: the second DRW has the points of the first, so it flips them back, and on a blank display they are the
pixels that it finds set. -/
theorem drawingTwiceErases : Obligations.DrawingTwiceErases := by
  intro x y n s hx hy hr
  refine ⟨_, _, execDrw_of_inRange hr, execDrw_of_inRange (s := drawn s x y n) hr, disp_drawn_drawn hx hy,
    fun hb => ⟨?_, ?_⟩⟩
  · exact reg_vf_drawn_of_not_set fun c r _ => State.pix_of_disp_eq_blankDisplay hb c r
  · rw [reg_vf_drawn_eq_one_iff]
    simp only [spriteCovers_drawn_iff hx hy]
    exact exists₂_congr fun c r => and_iff_left_of_imp (pix_drawn_of_blank hb)

end Sys2Proof.Machine
end
